-- ==== Sys2Proof/Word.lean ====
section
/-!
DEFINITION. The value types of 00_scope.md R11 to R13: nibbles, columns, the 2x2 block, port words and bytes,
with the nibble-wise exclusive or. What the spec calls a "State" (the cipher's 2x2 nibble matrix) is `Block` here,
because `State` names the machine's state.
-/

namespace Sys2Proof

/-- A Nibble, 0..15 (R12). -/
abbrev Nibble := BitVec 4

/-- A byte of a 2-byte buffer (R54), a UOP word (R73) or the STATUS word (R34). -/
abbrev Byte := BitVec 8

/-- A 16-bit port word: DIN, KIN or DOUT (R180). -/
abbrev PortWord := BitVec 16

/-- A Column `[n0, n1]`: `n0` is row 0, `n1` row 1 (R12). Key-schedule words are Columns. -/
structure Column where
  n0 : Nibble
  n1 : Nibble
deriving DecidableEq, Repr

/-- The spec's State `(c0, c1)`, a 2x2 matrix of nibbles (R12). Keys and round keys are Blocks too. -/
structure Block where
  c0 : Column
  c1 : Column
deriving DecidableEq, Repr

/-- Nibble-wise exclusive or of Columns (R13). -/
def Column.xor (a b : Column) : Column := ⟨a.n0 ^^^ b.n0, a.n1 ^^^ b.n1⟩

/-- Nibble-wise exclusive or of Blocks (R13). -/
def Block.xor (a b : Block) : Block := ⟨a.c0.xor b.c0, a.c1.xor b.c1⟩

end Sys2Proof
end

