-- ==== Sys2Proof/Syntax.lean ====
section
/-!
DEFINITION. The instructions: one constructor per row of spec/opcode_table.json, in its order. The first four are host
commands (CMD, 30_encoding.md R71), the others micro-ops of the sequencer (UOP, R74).
-/

namespace Sys2Proof

/-- The engine's instructions. ENC and DEC take their operands from the ports DIN and KIN (R72), so they have no field.
ARK and KW carry the 4-bit index of R75; `Instr.wf` says which indices are legal. -/
inductive Instr where
  /-- NOP, CMD 00 (R164). -/
  | nop
  /-- ENC, CMD 01 (R156). -/
  | enc
  /-- DEC, CMD 10 (R157). -/
  | dec
  /-- The reserved command, CMD 11 (R77), written CMD3 in host syntax. -/
  | rsvdCmd
  /-- ARK k(idx) (R136). -/
  | ark (idx : BitVec 4)
  /-- SUB (R120). -/
  | sub
  /-- ISUB (R122). -/
  | isub
  /-- SHR (R125). -/
  | shr
  /-- MIX (R131). -/
  | mix
  /-- IMIX (R132). -/
  | imix
  /-- KW w(idx) (R105). -/
  | kw (idx : BitVec 4)
  /-- FIN (R161). -/
  | fin
deriving DecidableEq, Repr

end Sys2Proof
end

