-- ==== Sys2Proof/WellFormed.lean ====
section
/-!
DEFINITION. Which instructions are legal: the index ranges of the opcode map (30_encoding.md R74).
-/

namespace Sys2Proof

/-- ARK's legal round-key indices, 0..4 (R74). -/
def arkIndexOk (idx : BitVec 4) : Bool := decide (idx.toNat ≤ 4)

/-- KW's legal word indices, 2..9 (R74). -/
def kwIndexOk (idx : BitVec 4) : Bool := decide (2 ≤ idx.toNat ∧ idx.toNat ≤ 9)

/-- An instruction the opcode map has a word for (R71, R74). -/
def Instr.wf : Instr → Bool
  | .nop => true
  | .enc => true
  | .dec => true
  | .rsvdCmd => true
  | .ark idx => arkIndexOk idx
  | .sub => true
  | .isub => true
  | .shr => true
  | .mix => true
  | .imix => true
  | .kw idx => kwIndexOk idx
  | .fin => true

end Sys2Proof
end

