-- ==== Sys2Proof/Decode.lean ====
section
/-!
DEFINITION. Decoding and encoding of both formats (30_encoding.md R70 to R81). The format of a word is known from where it
stands, never from its bits (R81): a command comes from the CMD port, a micro-op from the control ROM.
-/

namespace Sys2Proof

/-- Why a UOP word is refused: the four kinds of reserved words of R79. -/
inductive DecodeError where
  /-- op 0x8 to 0xF. -/
  | reservedOp (op : BitVec 4)
  /-- ARK with idx 5..15. -/
  | reservedArkIndex (idx : BitVec 4)
  /-- KW with idx 0, 1 or 10..15. -/
  | reservedKwIndex (idx : BitVec 4)
  /-- SUB, ISUB, SHR, MIX, IMIX or FIN with idx not 0. -/
  | nonzeroIndex (op idx : BitVec 4)
deriving DecidableEq, Repr

/-- An instruction word with its format (R70). -/
inductive RawWord where
  /-- A 2-bit command. -/
  | cmd (bits : BitVec 2)
  /-- An 8-bit micro-op. -/
  | uop (bits : BitVec 8)
deriving DecidableEq, Repr

/-- The CMD port's decoder, total: every 2-bit value is a row of R71. -/
def decodeCmd (c : BitVec 2) : Instr :=
  if c = 0b00#2 then .nop
  else if c = 0b01#2 then .enc
  else if c = 0b10#2 then .dec
  else .rsvdCmd

/-- `op`, bits 7:4 of a UOP word (R73). -/
def uopOp (w : BitVec 8) : BitVec 4 := w.extractLsb' 4 4

/-- `idx`, bits 3:0 of a UOP word (R73). -/
def uopIdx (w : BitVec 8) : BitVec 4 := w.extractLsb' 0 4

/-- The micro-ops without an index must have idx 0 (R75, R79). -/
def plainUop (i : Instr) (w : BitVec 8) : Except DecodeError Instr :=
  if uopIdx w = 0#4 then .ok i else .error (.nonzeroIndex (uopOp w) (uopIdx w))

/-- The UOP decoder: the opcode map of R74, and every other word refused by name (R79). -/
def decodeUop (w : BitVec 8) : Except DecodeError Instr :=
  if uopOp w = 0x0#4 then
    (if arkIndexOk (uopIdx w) then .ok (.ark (uopIdx w)) else .error (.reservedArkIndex (uopIdx w)))
  else if uopOp w = 0x1#4 then plainUop .sub w
  else if uopOp w = 0x2#4 then plainUop .isub w
  else if uopOp w = 0x3#4 then plainUop .shr w
  else if uopOp w = 0x4#4 then plainUop .mix w
  else if uopOp w = 0x5#4 then plainUop .imix w
  else if uopOp w = 0x6#4 then
    (if kwIndexOk (uopIdx w) then .ok (.kw (uopIdx w)) else .error (.reservedKwIndex (uopIdx w)))
  else if uopOp w = 0x7#4 then plainUop .fin w
  else .error (.reservedOp (uopOp w))

/-- The decoder of both formats. -/
def decode : RawWord → Except DecodeError Instr
  | .cmd c => .ok (decodeCmd c)
  | .uop w => decodeUop w

/-- The encoder, from the tables of R71 and R74. -/
def encode : Instr → RawWord
  | .nop => .cmd 0b00#2
  | .enc => .cmd 0b01#2
  | .dec => .cmd 0b10#2
  | .rsvdCmd => .cmd 0b11#2
  | .ark idx => .uop (0x0#4 ++ idx)
  | .sub => .uop 0x10#8
  | .isub => .uop 0x20#8
  | .shr => .uop 0x30#8
  | .mix => .uop 0x40#8
  | .imix => .uop 0x50#8
  | .kw idx => .uop (0x6#4 ++ idx)
  | .fin => .uop 0x70#8

/-- The decimal form of an index, for listings. -/
def decDigit (n : Nat) : String :=
  match n with
  | 0 => "0" | 1 => "1" | 2 => "2" | 3 => "3" | 4 => "4" | 5 => "5" | 6 => "6" | 7 => "7" | 8 => "8" | 9 => "9"
  | 10 => "10" | 11 => "11" | 12 => "12" | 13 => "13" | 14 => "14" | _ => "15"

/-- The written form of an instruction: micro-op syntax by R84, host command names by R82. -/
def listing : Instr → String
  | .nop => "NOP"
  | .enc => "ENC"
  | .dec => "DEC"
  | .rsvdCmd => "CMD3"
  | .ark idx => "ARK k" ++ decDigit idx.toNat
  | .sub => "SUB"
  | .isub => "ISUB"
  | .shr => "SHR"
  | .mix => "MIX"
  | .imix => "IMIX"
  | .kw idx => "KW w" ++ decDigit idx.toNat
  | .fin => "FIN"

/-- The word that `nbits` and `w` stand for when the opcode table's rows are read in whole bytes. A row of the CMD format
is then one byte holding 0 to 3, so those four values are read as commands and every other byte as a micro-op (log 9);
R81's own decoders, `decodeCmd` and `decodeUop`, are told the format and have no such overlap. -/
def tableWord (nbits w : Nat) : Option RawWord :=
  if w < 4 ∧ nbits ≤ 8 then some (.cmd (BitVec.ofNat 2 w))
  else if w < 256 ∧ nbits ≤ 8 then some (.uop (BitVec.ofNat 8 w))
  else none

/-- The instruction the decoder reads from a word of the opcode table. -/
def decodeTableWord (nbits w : Nat) : Option Instr :=
  match tableWord nbits w with
  | none => none
  | some r =>
    match decode r with
    | .ok i => some i
    | .error _ => none

end Sys2Proof
end

