-- ==== Sys2Proof/Machine/ControlRom.lean ====
section
/-!
DEFINITION. The control ROM: the key-expansion sequence and the two control programs, word for word from the tables of
42_round_sequencer.md R153. Read-only (10_state.md R39, 20_memory.md R62), so a definition and not state.
-/

namespace Sys2Proof.Machine

/-- KX, the key-expansion sequence: KW w2 to KW w9 (R106, R153). -/
def kxWords : List (BitVec 8) := [0x62#8, 0x63#8, 0x64#8, 0x65#8, 0x66#8, 0x67#8, 0x68#8, 0x69#8]

/-- ENC_PROG, stages S0 to S4 (R153). -/
def encProg : List (List (BitVec 8)) :=
  [[0x00#8],
   [0x10#8, 0x30#8, 0x40#8, 0x01#8],
   [0x10#8, 0x30#8, 0x40#8, 0x02#8],
   [0x10#8, 0x30#8, 0x40#8, 0x03#8],
   [0x10#8, 0x30#8, 0x04#8, 0x70#8]]

/-- DEC_PROG, stages S0 to S4 (R153). -/
def decProg : List (List (BitVec 8)) :=
  [[0x04#8, 0x30#8, 0x20#8],
   [0x03#8, 0x50#8, 0x30#8, 0x20#8],
   [0x02#8, 0x50#8, 0x30#8, 0x20#8],
   [0x01#8, 0x50#8, 0x30#8, 0x20#8],
   [0x00#8, 0x70#8]]

/-- The stage that DIR and STG select (R158); none at STG 5, 6 or 7, which never occur (R27). -/
def stageWords (dir : BitVec 1) (stg : BitVec 3) : Option (List (BitVec 8)) :=
  (if dir = 0#1 then encProg else decProg)[stg.toNat]?

/-- Whether the last micro-op of a stage is FIN (R158). -/
def endsInFin (words : List (BitVec 8)) : Bool := decide (words.getLast? = some 0x70#8)

end Sys2Proof.Machine
end

