-- ==== Sys2Proof/Config.lean ====
section
/-!
DEFINITION. What is fixed when an engine is built and the values the spec leaves open: the two OPEN parameters SBOX and
MIX_T (00_scope.md R7 to R9), and one free value of the host's side. The opaque constants have no body: nothing can be
proved of them beyond their types, so a claim about the machine holds for every admissible choice.
-/

namespace Sys2Proof

/-- The parameters of R7. `sbox` is a bijection on nibbles (R8), so SBOX_INV is `sbox.symm`; `mixT` is an invertible
8x8 matrix over GF(2) (R9), entry `mixT i j` in row i and column j, so MIX_TINV is its inverse. -/
structure Params where
  sbox : Equiv.Perm Nibble
  mixT : Matrix.GeneralLinearGroup (Fin 8) (ZMod 2)

/-- SBOX of this engine: OPEN, any bijection (R8; log 1). -/
opaque Config.sbox : Equiv.Perm Nibble

/-- MIX_T of this engine: OPEN, any invertible matrix (R9; log 2). -/
opaque Config.mixT : Matrix.GeneralLinearGroup (Fin 8) (ZMod 2)

/-- What a host BRANCH tests when the host has not read STATUS yet: the spec does not say (R82; log 10). -/
opaque Config.unreadStatus : BitVec 8

/-- The parameters of this engine. -/
def Config.params : Params := ⟨Config.sbox, Config.mixT⟩

/-- The matrix whose row i is the bit string `rows[i]`, entries 0..7 from the left. -/
def matrixOfRows (rows : Vector Byte 8) : Matrix (Fin 8) (Fin 8) (ZMod 2) :=
  Matrix.of fun i j => if rows[i].getMsbD j then 1 else 0

/-- The degenerate instantiation ID of 95_test_vectors.md: both tables the identity. For tests only. -/
def Params.ident : Params := ⟨Equiv.refl Nibble, 1⟩

/-- SBOX_RI (R10), non-normative. -/
def sboxRi : Vector Nibble 16 := #v[0xA, 0x4, 0x3, 0xB, 0x8, 0xE, 0x2, 0xC, 0x5, 0x7, 0x6, 0xF, 0x0, 0x1, 0x9, 0xD]

/-- SBOX_INV_RI (R10), non-normative. -/
def sboxInvRi : Vector Nibble 16 := #v[0xC, 0xD, 0x6, 0x2, 0x1, 0x8, 0xA, 0x9, 0x4, 0xE, 0x0, 0x3, 0x7, 0xF, 0x5, 0xB]

/-- MIX_T_RI (R10), non-normative. -/
def mixTRi : Matrix (Fin 8) (Fin 8) (ZMod 2) :=
  matrixOfRows #v[0b10110011, 0b11001000, 0b01100100, 0b00110010, 0b00111011, 0b10001100, 0b01000110, 0b00100011]

/-- MIX_T_RI is its own inverse (R10). -/
theorem mixTRi_mul_self : mixTRi * mixTRi = 1 := by decide

/-- The reference instantiation RI (R10), non-normative: for concrete vectors only, never the engine's own tables. -/
def Params.ri : Params where
  sbox := { toFun := fun x => sboxRi[x.toFin], invFun := fun x => sboxInvRi[x.toFin],
            left_inv := by unfold Function.LeftInverse; decide, right_inv := by unfold Function.RightInverse Function.LeftInverse; decide }
  mixT := ⟨mixTRi, mixTRi, mixTRi_mul_self, mixTRi_mul_self⟩

end Sys2Proof
end

