-- ==== Sys2Proof/Machine/HostAction.lean ====
section
/-!
DEFINITION. The host agent's side of the machine (10_state.md R20): what a host program is made of, what the host remembers,
and who moves next. None of it is engine state (30_encoding.md R82, 10_state.md R35).
-/

namespace Sys2Proof.Machine

/-- The two agents (R20). -/
inductive Agent where
  | host
  | sequencer
deriving DecidableEq, Repr

/-- The conditions of `BRANCH.<cond>` (R82), tested on the last READ STATUS. -/
inductive Cond where
  | busy
  | nbusy
  | done
  | err
deriving DecidableEq, Repr

/-- One action of a host program, branch targets resolved to program lines. -/
inductive HostAction where
  /-- Issue(c, x, k): present CMD = c, DIN = x, KIN = k for one step (R181). -/
  | issue (c : BitVec 2) (x k : PortWord)
  /-- READ STATUS (R182). -/
  | readStatus
  /-- READ DOUT (R183). -/
  | readDout
  /-- RESET: RST asserted for one step (R82, R220). -/
  | reset
  /-- RST asserted and kept asserted (R221). -/
  | assertRst
  /-- RST released (R221). -/
  | releaseRst
  /-- DIN and KIN changed with no Issue (R226, V-IF-14). -/
  | drive (x k : PortWord)
  /-- BRANCH.cond to a line of the program (R82): host-internal. -/
  | branch (c : Cond) (target : Nat)
  /-- The end of a byte-level call: return the bytes of the value read from DOUT (R188): host-internal. -/
  | returnBytes
  /-- A byte-level call with a buffer of the wrong length (R203): host-internal. -/
  | invalidInputSize (blockLength keyLength : Nat)
deriving DecidableEq, Repr

/-- What a byte-level call gives its caller (R188, R203). -/
inductive CallResult where
  /-- The two result bytes. -/
  | bytes (b0 b1 : Byte)
  /-- `InvalidInputSize`, with both lengths (D24). -/
  | invalidInputSize (blockLength keyLength : Nat)
deriving DecidableEq, Repr

/-- The host agent: its program, its place in it, and the values it last read. The two `Option`s say whether the host has
read anything yet; they are the host's memory and no register. -/
structure HostAgent where
  prog : List HostAction
  pc : Nat
  lastStatus : Option Byte
  lastDout : Option PortWord
  results : List CallResult
deriving DecidableEq, Repr

end Sys2Proof.Machine
end

