-- ==== Sys2Proof/Machine/State.lean ====
section
/-!
DEFINITION. The machine's state as plain data: every register of 10_state.md R21, the input ports (R35), the host agent
(R20), the order of moves (43_host_interface.md R184), and the state after reset (R41, 70_reset_and_hazards.md R223).
-/

namespace Sys2Proof.Machine

/-- A register that can hold the spec's ⊥ (R41, R42). `written = false` is ⊥, "not written"; `val` is then a value no host
read returns (log 3). -/
structure Reg (α : Type) where
  val : α
  written : Bool
deriving DecidableEq, Repr

/-- Why the machine stops with a fault. -/
inductive Fault where
  /-- `DoutUnwritten`, the one fault of R186's table: raised by the host's READ DOUT while DOUT is ⊥ (R42, R183), which R191
tells the host not to do. Safe: the chip returns some bits, the model none. -/
  | doutUnwritten
deriving DecidableEq, Repr

/-- Why an instruction is given no meaning. -/
inductive Refusal where
  /-- Raised by `exec` for an instruction without a meaning, of which there is none. Safe. -/
  | notModelled (mnemonic : String)
  /-- Raised for a UOP word outside the opcode map (R79, D27). Safe, and no run of the control programs reaches it. -/
  | reservedUop (word : BitVec 8)
  /-- Raised by a stage step at STG 5, 6 or 7, which never occur (R27, U4). Safe. -/
  | reservedStage (stg : BitVec 3)
deriving DecidableEq, Repr

/-- The machine's state. -/
structure State where
  /-- ST, the working block (R22). -/
  st : Reg Block
  /-- KEY, the latched key (R23). -/
  key : Reg Block
  /-- W[0..9], the word file (R24). -/
  w : Vector (Reg Column) 10
  /-- DIR: 0 encrypt, 1 decrypt (R26). -/
  dir : BitVec 1
  /-- STG, the next stage to execute (R27). -/
  stg : BitVec 3
  /-- DOUT, the last completed result (R28). -/
  dout : Reg PortWord
  /-- STATUS.BUSY (R29). -/
  busy : Bool
  /-- STATUS.DONE (R30). -/
  done : Bool
  /-- STATUS.ERR (R31). -/
  err : Bool
  /-- STATUS.ERRCODE (R32). -/
  errcode : BitVec 2
  /-- The DIN port as the host drives it (R35). -/
  din : PortWord
  /-- The KIN port as the host drives it (R35). -/
  kin : PortWord
  /-- The RST line (R180). -/
  rst : Bool
  /-- The host agent (R20). -/
  host : HostAgent
  /-- Who moves next, oldest turn first (R184; log 6). The model's own field. -/
  sched : List Agent
  /-- A UOP word given to the sequencer's decoder from outside the control ROM (log 8). The model's own field. -/
  uopSlot : Option (BitVec 8)
deriving DecidableEq, Repr

/-- The zero Column. -/
def zeroColumn : Column := ⟨0, 0⟩

/-- The zero Block. -/
def zeroBlock : Block := ⟨zeroColumn, zeroColumn⟩

/-- The machine right after reset, `ResetState` of R223: STATUS, STG and DIR are 0, and DOUT, ST, KEY and W are ⊥. The host
has no program and drives zeros (log 5). -/
def State.reset : State where
  st := ⟨zeroBlock, false⟩
  key := ⟨zeroBlock, false⟩
  w := Vector.replicate 10 ⟨zeroColumn, false⟩
  dir := 0#1
  stg := 0#3
  dout := ⟨0#16, false⟩
  busy := false
  done := false
  err := false
  errcode := 0#2
  din := 0#16
  kin := 0#16
  rst := false
  host := ⟨[], 0, none, none, []⟩
  sched := []
  uopSlot := none

end Sys2Proof.Machine
end

