-- ==== Sys2Proof/Machine/Operands.lean ====
section
/-!
DEFINITION. Operand forms: port words and Blocks (20_memory.md R52, R53), bytes and port words (R54), Columns and GF(2) bit
vectors (R56), the word file by index (10_state.md R24) and the round keys as a view of it (R25).
-/

namespace Sys2Proof.Machine

/-- The Block of a port word (R52). -/
def unpack (x : PortWord) : Block :=
  ⟨⟨x.extractLsb' 12 4, x.extractLsb' 8 4⟩, ⟨x.extractLsb' 4 4, x.extractLsb' 0 4⟩⟩

/-- The port word of a Block (R53). -/
def pack (b : Block) : PortWord := b.c0.n0 ++ b.c0.n1 ++ b.c1.n0 ++ b.c1.n1

/-- The cell `S[c][r]`: column `c`, row `r` (R12), each 0 for false and 1 for true. -/
def cell (b : Block) (c r : Bool) : Nibble :=
  let col := if c then b.c1 else b.c0
  if r then col.n1 else col.n0

/-- The port word of a 2-byte buffer, byte 0 the more significant (R54). -/
def wordOfBytes (b0 b1 : Byte) : PortWord := b0 ++ b1

/-- Byte 0 of a port word (R54). -/
def byte0 (x : PortWord) : Byte := x.extractLsb' 8 8

/-- Byte 1 of a port word (R54). -/
def byte1 (x : PortWord) : Byte := x.extractLsb' 0 8

/-- `vec([a, b])`, most significant bit of `a` first (R56). -/
def vec (c : Column) (j : Fin 8) : Bool := (c.n0 ++ c.n1).getMsbD j

/-- `unvec`, the inverse of `vec` (R56). -/
def unvec (v : Fin 8 → Bool) : Column :=
  ⟨BitVec.ofBool (v 0) ++ BitVec.ofBool (v 1) ++ BitVec.ofBool (v 2) ++ BitVec.ofBool (v 3),
   BitVec.ofBool (v 4) ++ BitVec.ofBool (v 5) ++ BitVec.ofBool (v 6) ++ BitVec.ofBool (v 7)⟩

/-- `parity(b0..b7)` (R13). -/
def parity (b : Fin 8 → Bool) : Bool := b 0 ^^ b 1 ^^ b 2 ^^ b 3 ^^ b 4 ^^ b 5 ^^ b 6 ^^ b 7

/-- An entry of a GF(2) matrix as a bit. -/
def gf2Bit (x : ZMod 2) : Bool := decide (x = 1)

/-- A register holding a value. -/
def Reg.holding {α : Type} (v : α) : Reg α := ⟨v, true⟩

/-- A function of one register's value: ⊥ gives ⊥ (log 4). -/
def Reg.map {α β : Type} (f : α → β) (r : Reg α) : Reg β := ⟨f r.val, r.written⟩

/-- A function of two registers' values: ⊥ in either gives ⊥ (log 4). -/
def Reg.map₂ {α β γ : Type} (f : α → β → γ) (a : Reg α) (b : Reg β) : Reg γ :=
  ⟨f a.val b.val, a.written && b.written⟩

/-- The word register `W[i]` (R24); every index the engine forms is 0..9 (R51). -/
def State.word (s : State) (i : Nat) : Reg Column := if h : i < 10 then s.w[i] else ⟨zeroColumn, false⟩

/-- The round key `k(i) = (W[2i], W[2i+1])` (R25). -/
def State.roundKey (s : State) (i : Nat) : Reg Block := (s.word (2 * i)).map₂ Block.mk (s.word (2 * i + 1))

end Sys2Proof.Machine
end

