-- ==== Sys2Proof/Machine/Flags.lean ====
section
/-!
DEFINITION. The STATUS word and every change of its fields (10_state.md R29 to R34, R43). The engine has no condition codes.
-/

namespace Sys2Proof.Machine

/-- ERRCODE of `E_RSVD_CMD` (R32, R200). -/
def eRsvdCmd : BitVec 2 := 1#2

/-- ERRCODE of `E_BUSY` (R32, R200). -/
def eBusy : BitVec 2 := 2#2

/-- The STATUS word as the host reads it (R34). -/
def State.status (s : State) : BitVec 8 :=
  0b000#3 ++ s.errcode ++ BitVec.ofBool s.err ++ BitVec.ofBool s.done ++ BitVec.ofBool s.busy

/-- The flags at acceptance (R155). -/
def State.flagsAccept (s : State) : State := { s with busy := true, done := false, err := false, errcode := 0#2 }

/-- The flags at a rejection: ERR is set and ERRCODE overwritten, nothing else (R201, R202, R204). -/
def State.flagsReject (code : BitVec 2) (s : State) : State := { s with err := true, errcode := code }

/-- The flags at FIN: ERR and ERRCODE stay (R161). -/
def State.flagsFinish (s : State) : State := { s with busy := false, done := true }

end Sys2Proof.Machine
end

