-- ==== Sys2Proof/Machine/Transforms.lean ====
section
/-!
DEFINITION. The cipher's mathematics as functions of the parameters (00_scope.md R7): the round transforms
(41_round_transforms.md), the key schedule (40_key_schedule.md) and the two schedules (42_round_sequencer.md R150 to R154).
Nothing here reads or writes the machine's state.
-/

namespace Sys2Proof.Machine

/-- The same function on each of the two nibbles of a Column; with SBOX this is `Scol` (R102). -/
def mapColumn (f : Nibble → Nibble) (c : Column) : Column := ⟨f c.n0, f c.n1⟩

/-- The same function on each of the four lanes of a Block (R121). -/
def mapCells (f : Nibble → Nibble) (b : Block) : Block := ⟨mapColumn f b.c0, mapColumn f b.c1⟩

/-- The same function on each of the two columns of a Block (R135). -/
def mapColumns (f : Column → Column) (b : Block) : Block := ⟨f b.c0, f b.c1⟩

/-- SUB on Blocks (R120). -/
def subBytes (P : Params) (b : Block) : Block := mapCells P.sbox b

/-- ISUB on Blocks, through SBOX_INV (R122). -/
def subBytesInverse (P : Params) (b : Block) : Block := mapCells P.sbox.symm b

/-- SHR on Blocks: the row-1 nibbles change places (R125). -/
def shiftRows (b : Block) : Block := ⟨⟨b.c0.n0, b.c1.n1⟩, ⟨b.c1.n0, b.c0.n1⟩⟩

/-- `mixcol(M, c)`: output bit j is the parity of the input vector and-ed with column j of M (R130). -/
def mixcol (M : Matrix (Fin 8) (Fin 8) (ZMod 2)) (c : Column) : Column :=
  unvec fun j => parity fun i => vec c i && gf2Bit (M i j)

/-- MIX on Blocks, with MIX_T (R131). -/
def mixColumns (P : Params) (b : Block) : Block := mapColumns (mixcol P.mixT.val) b

/-- IMIX on Blocks, with MIX_TINV (R132). -/
def mixColumnsInverse (P : Params) (b : Block) : Block := mapColumns (mixcol P.mixT.inv) b

/-- Key addition (R136). -/
def addRoundKey (k b : Block) : Block := b.xor k

/-- `reverse([a, b]) = [b, a]` (R102). -/
def reverseColumn (c : Column) : Column := ⟨c.n1, c.n0⟩

/-- The round constant `y(j) = [2^(j-1), 0]`, j = 1..4 (R6). -/
def roundConstant (j : Nat) : Column := ⟨BitVec.ofNat 4 (2 ^ (j - 1)), 0⟩

/-- The word `w(i)`, i = 2..9, from `w(i-2)` and `w(i-1)`: the odd rule R103 or the even rule R104. -/
def keyStep (P : Params) (i : Nat) (older newer : Column) : Column :=
  if i % 2 = 1 then older.xor newer
  else (older.xor (mapColumn P.sbox (reverseColumn newer))).xor (roundConstant (i / 2))

/-- The key-schedule word `w(i)` of a key by the recursion of R101, R103 and R104. -/
def keyWord (P : Params) (key : Block) : Nat → Column
  | 0 => key.c0
  | 1 => key.c1
  | n + 2 => keyStep P (n + 2) (keyWord P key n) (keyWord P key (n + 1))

/-- The round key `k(i)` of a key (R25). -/
def roundKeyOf (P : Params) (key : Block) (i : Nat) : Block := ⟨keyWord P key (2 * i), keyWord P key (2 * i + 1)⟩

/-- The round function ρ_i, i = 1, 2, 3 (R150). -/
def roundFn (P : Params) (key : Block) (i : Nat) (b : Block) : Block :=
  addRoundKey (roundKeyOf P key i) (mixColumns P (shiftRows (subBytes P b)))

/-- The final round φ, without mixing (R150). -/
def finalRound (P : Params) (key : Block) (b : Block) : Block :=
  addRoundKey (roundKeyOf P key 4) (shiftRows (subBytes P b))

/-- ρ_i⁻¹ (R150). -/
def roundFnInverse (P : Params) (key : Block) (i : Nat) (b : Block) : Block :=
  subBytesInverse P (shiftRows (mixColumnsInverse P (addRoundKey (roundKeyOf P key i) b)))

/-- φ⁻¹ (R150). -/
def finalRoundInverse (P : Params) (key : Block) (b : Block) : Block :=
  subBytesInverse P (shiftRows (addRoundKey (roundKeyOf P key 4) b))

/-- Stage `n` of encryption: round n (R151, R152). -/
def encStage (P : Params) (key : Block) (n : Nat) (b : Block) : Block :=
  if n = 0 then addRoundKey (roundKeyOf P key 0) b
  else if n = 4 then finalRound P key b
  else roundFn P key n b

/-- Stage `n` of decryption: the inverse of round 4 - n (R152, R154). -/
def decStage (P : Params) (key : Block) (n : Nat) (b : Block) : Block :=
  if n = 0 then finalRoundInverse P key b
  else if n = 4 then addRoundKey (roundKeyOf P key 0) b
  else roundFnInverse P key (4 - n) b

/-- The Block after the first `n` stages in the direction `d` (0 encrypt, 1 decrypt; R26). -/
def afterStages (P : Params) (d : BitVec 1) (key b : Block) : Nat → Block
  | 0 => b
  | n + 1 =>
    if d = 0#1 then encStage P key n (afterStages P d key b n) else decStage P key n (afterStages P d key b n)

/-- `Enc_K` on Blocks (R151). -/
def encBlock (P : Params) (key b : Block) : Block :=
  finalRound P key (roundFn P key 3 (roundFn P key 2 (roundFn P key 1 (addRoundKey (roundKeyOf P key 0) b))))

/-- `Dec_K` on Blocks (R154). -/
def decBlock (P : Params) (key c : Block) : Block :=
  addRoundKey (roundKeyOf P key 0)
    (roundFnInverse P key 1 (roundFnInverse P key 2 (roundFnInverse P key 3 (finalRoundInverse P key c))))

/-- `Enc(p, K)` on port words (R151). -/
def encWord (P : Params) (p k : PortWord) : PortWord := pack (encBlock P (unpack k) (unpack p))

/-- `Dec(c, K)` on port words (R154). -/
def decWord (P : Params) (c k : PortWord) : PortWord := pack (decBlock P (unpack k) (unpack c))

/-- Encryption with a MIX wrongly put into the final round, `Enc'` of R166. No control program of the engine does this. -/
def encBlockInjected (P : Params) (key b : Block) : Block :=
  addRoundKey (roundKeyOf P key 4) (mixColumns P (shiftRows (subBytes P
    (roundFn P key 3 (roundFn P key 2 (roundFn P key 1 (addRoundKey (roundKeyOf P key 0) b)))))))

end Sys2Proof.Machine
end

