-- ==== Sys2Proof/Machine/Ops.lean ====
section
/-!
DEFINITION. The named operations on the registers that the meanings share. The engine has no memory (20_memory.md R50) and no
trap (60_exceptions.md R206): the place of taking an exception is held by `State.reject`, the one operation of both error
conditions, and the place of returning from one by nothing, since ERR is cleared by the next acceptance (R207).
-/

namespace Sys2Proof.Machine

/-- Write ST. -/
def State.setSt (s : State) (r : Reg Block) : State := { s with st := r }

/-- Write the word register `W[i]` (R24). -/
def State.setWord (s : State) (i : Nat) (r : Reg Column) : State := { s with w := s.w.setIfInBounds i r }

/-- The host drives DIN and KIN (R35). -/
def State.drivePorts (s : State) (x k : PortWord) : State := { s with din := x, kin := k }

/-- The host drives RST. -/
def State.setRst (s : State) (b : Bool) : State := { s with rst := b }

/-- The host agent changes what it remembers or where it stands. -/
def State.setHost (s : State) (h : HostAgent) : State := { s with host := h }

/-- One turn is used up. -/
def State.popSched (s : State) : State := { s with sched := s.sched.tail }

/-- The micro-op slot is emptied. -/
def State.clearSlot (s : State) : State := { s with uopSlot := none }

/-- The state right after a stage that does not end in FIN (R158). -/
def State.nextStage (s : State) : State := { s with stg := s.stg + 1#3 }

/-- A round transform: ST is read and written back (R22). -/
def State.transform (f : Block → Block) (s : State) : State := s.setSt (s.st.map f)

/-- Key addition with the round key `k(i)` (R136). -/
def State.addKey (i : Nat) (s : State) : State := s.setSt ((s.roundKey i).map₂ addRoundKey s.st)

/-- KW w<i>: compute `W[i]` from `W[i-2]` and `W[i-1]` (R105). -/
def State.computeWord (P : Params) (i : Nat) (s : State) : State :=
  s.setWord i ((s.word (i - 2)).map₂ (keyStep P i) (s.word (i - 1)))

/-- The key-expansion sequence, in the order of the ROM (R106). -/
def State.expandKey (P : Params) (s : State) : State :=
  kxWords.foldl (fun t u => t.computeWord P (uopIdx u).toNat) s

/-- The latching half of acceptance: ST and KEY from the ports, `W[0]` and `W[1]` from KEY (R101, R155). -/
def State.latchInputs (s : State) : State :=
  { s with
    st := Reg.holding (unpack s.din)
    key := Reg.holding (unpack s.kin)
    w := (s.w.setIfInBounds 0 (Reg.holding (unpack s.kin).c0)).setIfInBounds 1 (Reg.holding (unpack s.kin).c1) }

/-- The control half of acceptance: DIR, STG and the flags (R155). -/
def State.start (d : BitVec 1) (s : State) : State := { s.flagsAccept with dir := d, stg := 0#3 }

/-- Acceptance, one atomic step (R155). DOUT is not written. -/
def State.accept (P : Params) (d : BitVec 1) (s : State) : State := (s.latchInputs.expandKey P).start d

/-- A rejected command: only ERR and ERRCODE change (R201, R202, R206). -/
def State.reject (code : BitVec 2) (s : State) : State := s.flagsReject code

/-- FIN: four writes in one step (R161). -/
def State.finish (s : State) : State := { s.flagsFinish with dout := s.st.map pack, stg := 0#3 }

/-- The reset event: every register takes its value of R41 (R220). The ports, the host and the order of moves stay. -/
def State.resetEngine (s : State) : State :=
  { State.reset with
    din := s.din, kin := s.kin, rst := s.rst, host := s.host, sched := s.sched, uopSlot := s.uopSlot }

end Sys2Proof.Machine
end

