-- ==== Sys2Proof/Machine/Command.lean ====
section
/-!
DEFINITION. The host's commands (30_encoding.md R71). In each, the busy case comes before the others (60_exceptions.md R205).
-/

namespace Sys2Proof.Machine

/-- A command that starts an operation in the direction `d`: `E_BUSY` while BUSY = 1, acceptance otherwise (R181). -/
def startCommand (d : BitVec 1) (s : State) : Host.Outcome State Fault Refusal :=
  if s.busy then .next (s.reject eBusy) else .next (s.accept Config.params d)

/-- NOP (R164): nothing, busy or not. -/
def execNop (s : State) : Host.Outcome State Fault Refusal := .next s

/-- ENC (R156). -/
def execEnc (s : State) : Host.Outcome State Fault Refusal := startCommand 0#1 s

/-- DEC (R157). -/
def execDec (s : State) : Host.Outcome State Fault Refusal := startCommand 1#1 s

/-- The reserved command (R77): `E_BUSY` while BUSY = 1 (R202), `E_RSVD_CMD` otherwise (R201). -/
def execRsvdCmd (s : State) : Host.Outcome State Fault Refusal :=
  if s.busy then .next (s.reject eBusy) else .next (s.reject eRsvdCmd)

end Sys2Proof.Machine
end

