-- ==== Sys2Proof/Machine/MicroOp.lean ====
section
/-!
DEFINITION. The micro-ops of the sequencer (30_encoding.md R74). Each is total; an index outside the opcode map is a reserved
word, which the decoder already refuses (R79), and is refused here too.
-/

namespace Sys2Proof.Machine

/-- ARK k<idx> (R136). -/
def execArk (idx : BitVec 4) (s : State) : Host.Outcome State Fault Refusal :=
  if arkIndexOk idx then .next (s.addKey idx.toNat) else .refused (.reservedUop (0x0#4 ++ idx))

/-- SUB (R120). -/
def execSub (s : State) : Host.Outcome State Fault Refusal := .next (s.transform (subBytes Config.params))

/-- ISUB (R122). -/
def execIsub (s : State) : Host.Outcome State Fault Refusal := .next (s.transform (subBytesInverse Config.params))

/-- SHR (R125). -/
def execShr (s : State) : Host.Outcome State Fault Refusal := .next (s.transform shiftRows)

/-- MIX (R131). -/
def execMix (s : State) : Host.Outcome State Fault Refusal := .next (s.transform (mixColumns Config.params))

/-- IMIX (R132). -/
def execImix (s : State) : Host.Outcome State Fault Refusal := .next (s.transform (mixColumnsInverse Config.params))

/-- KW w<idx> (R105). -/
def execKw (idx : BitVec 4) (s : State) : Host.Outcome State Fault Refusal :=
  if kwIndexOk idx then .next (s.computeWord Config.params idx.toNat) else .refused (.reservedUop (0x6#4 ++ idx))

/-- FIN (R161). -/
def execFin (s : State) : Host.Outcome State Fault Refusal := .next s.finish

end Sys2Proof.Machine
end

