-- ==== Sys2Proof/Machine/Dispatch.lean ====
section
/-!
DEFINITION. One arm per instruction.
-/

namespace Sys2Proof.Machine

def exec (i : Instr) (s : State) : Host.Outcome State Fault Refusal :=
  match i with
  | .nop => Sys2Proof.Machine.execNop s
  | .enc => Sys2Proof.Machine.execEnc s
  | .dec => Sys2Proof.Machine.execDec s
  | .rsvdCmd => Sys2Proof.Machine.execRsvdCmd s
  | .ark idx => Sys2Proof.Machine.execArk idx s
  | .sub => Sys2Proof.Machine.execSub s
  | .isub => Sys2Proof.Machine.execIsub s
  | .shr => Sys2Proof.Machine.execShr s
  | .mix => Sys2Proof.Machine.execMix s
  | .imix => Sys2Proof.Machine.execImix s
  | .kw idx => Sys2Proof.Machine.execKw idx s
  | .fin => Sys2Proof.Machine.execFin s

end Sys2Proof.Machine
end

