-- ==== Sys2Proof/Machine/HostPort.lean ====
section
/-!
DEFINITION. The host's turn (43_host_interface.md R181 to R184): one action of its program, and what the engine does in that
same atomic step.
-/

namespace Sys2Proof.Machine

/-- Issue(c, x, k): the ports are driven, the command is decoded and executed in the same step (R181). While RST is asserted
the command is not sampled (R205, R221). -/
def issue (c : BitVec 2) (x k : PortWord) (s : State) : Host.Outcome State Fault Refusal :=
  if s.rst then .next (s.drivePorts x k) else exec (decodeCmd c) (s.drivePorts x k)

/-- ReadStatus: the host remembers the STATUS word; the engine is unchanged (R182). -/
def readStatus (s : State) : State := s.setHost { s.host with lastStatus := some s.status }

/-- ReadDout: the host remembers DOUT; a read of ⊥ is the fault `DoutUnwritten`, as R183 and R186 say (R42, R191, D18, U1). -/
def readDout (s : State) : Host.Outcome State Fault Refusal :=
  if s.dout.written then .next (s.setHost { s.host with lastDout := some s.dout.val }) else .fault .doutUnwritten

/-- A branch condition on a STATUS value (R82, R34). -/
def Cond.holds (c : Cond) (status : Byte) : Bool :=
  match c with
  | .busy => status.getLsbD 0
  | .nbusy => !status.getLsbD 0
  | .done => status.getLsbD 1
  | .err => status.getLsbD 2

/-- BRANCH.c: host-internal, on the last value read from STATUS (R82; log 10 if none was read). -/
def branch (c : Cond) (target : Nat) (s : State) : State :=
  if c.holds (s.host.lastStatus.getD Config.unreadStatus) then s.setHost { s.host with pc := target } else s

/-- The end of a byte-level call: the bytes of the value read from DOUT are its result (R188; log 14). -/
def returnBytes (s : State) : State :=
  match s.host.lastDout with
  | some r => s.setHost { s.host with results := s.host.results ++ [.bytes (byte0 r) (byte1 r)] }
  | none => s

/-- A byte-level call with a wrong length: the caller gets both lengths, the engine does nothing (R203). -/
def returnInvalid (blockLength keyLength : Nat) (s : State) : State :=
  s.setHost { s.host with results := s.host.results ++ [.invalidInputSize blockLength keyLength] }

/-- The host takes up its next line. -/
def advanceHost (s : State) : State := s.setHost { s.host with pc := s.host.pc + 1 }

/-- One host action. -/
def hostAct (a : HostAction) (s : State) : Host.Outcome State Fault Refusal :=
  match a with
  | .issue c x k => issue c x k s
  | .readStatus => .next (readStatus s)
  | .readDout => readDout s
  | .reset => .next s.resetEngine
  | .assertRst => .next (s.resetEngine.setRst true)
  | .releaseRst => .next (s.setRst false)
  | .drive x k => .next (s.drivePorts x k)
  | .branch c target => .next (branch c target s)
  | .returnBytes => .next (returnBytes s)
  | .invalidInputSize n m => .next (returnInvalid n m s)

/-- The host's turn: the next line of its program; when the program has ended the turn passes (R187). -/
def hostStep (s : State) : Host.Outcome State Fault Refusal :=
  match s.host.prog[s.host.pc]? with
  | some a => hostAct a (advanceHost s)
  | none => .next s

/-- Who moves next: the head of the order of moves; when that is used up, the sequencer while it has a step, otherwise the
host, so that the sequencer is weakly fair (R184; log 7). -/
def nextAgent (s : State) : Agent :=
  match s.sched with
  | a :: _ => a
  | [] => if s.busy && !s.rst then .sequencer else .host

end Sys2Proof.Machine
end

