-- ==== Sys2Proof/Machine/HostProgram.lean ====
section
/-!
DEFINITION. Host programs as they are written (30_encoding.md R82, R83), with labels, pseudo-instructions and the byte-level
calls (43_host_interface.md R188, R189), and their translation to host actions. The text form (comments, spacing, hex
digits) is notation and is left out.
-/

namespace Sys2Proof.Machine

/-- One line of a host program. Labels are numbers. -/
inductive HostLine where
  | enc (din kin : PortWord)
  | dec (din kin : PortWord)
  | nop
  | cmd3 (din kin : PortWord)
  | readStatus
  | readDout
  | reset
  | label (l : Nat)
  | branch (c : Cond) (l : Nat)
  /-- WAIT: poll until BUSY = 0 (R83). -/
  | wait
  /-- RUN.ENC (R83). -/
  | runEnc (din kin : PortWord)
  /-- RUN.DEC (R83). -/
  | runDec (din kin : PortWord)
  /-- The byte-level encrypt (R188). -/
  | encrypt (pt key : List Byte)
  /-- The byte-level decrypt (R189). -/
  | decrypt (ct key : List Byte)
deriving DecidableEq, Repr

/-- WAIT at line `base`: `w: READ STATUS`, `BRANCH.BUSY w`, with `w` its own line (R83). -/
def waitLines (base : Nat) : List HostAction := [.readStatus, .branch .busy base]

/-- RUN.ENC or RUN.DEC at line `base`: the command, WAIT, READ DOUT (R83). -/
def runLines (c : BitVec 2) (x k : PortWord) (base : Nat) : List HostAction :=
  .issue c x k :: (waitLines (base + 1) ++ [.readDout])

/-- A byte-level call at line `base`: the length check first, then the command on the packed words (R188, R189, R203). -/
def callLines (c : BitVec 2) (block key : List Byte) (base : Nat) : List HostAction :=
  match block, key with
  | [b0, b1], [k0, k1] => runLines c (wordOfBytes b0 b1) (wordOfBytes k0 k1) base ++ [.returnBytes]
  | _, _ => [.invalidInputSize block.length key.length]

/-- The host actions of a line at `base`, where `find` gives the line a label stands for; none for an unknown label. A NOP
line has no operands (R82) and the spec leaves open what DIN and KIN carry with it (R72, R164, R191): it drives both to 0,
DESIGN CHOICE (log 20), which no register can see. -/
def lineActions (find : Nat → Option Nat) (base : Nat) : HostLine → Option (List HostAction)
  | .enc x k => some [.issue 0b01#2 x k]
  | .dec x k => some [.issue 0b10#2 x k]
  | .nop => some [.issue 0b00#2 0 0]
  | .cmd3 x k => some [.issue 0b11#2 x k]
  | .readStatus => some [.readStatus]
  | .readDout => some [.readDout]
  | .reset => some [.reset]
  | .label _ => some []
  | .branch c l => (find l).map fun n => [.branch c n]
  | .wait => some (waitLines base)
  | .runEnc x k => some (runLines 0b01#2 x k base)
  | .runDec x k => some (runLines 0b10#2 x k base)
  | .encrypt pt key => some (callLines 0b01#2 pt key base)
  | .decrypt ct key => some (callLines 0b10#2 ct key base)

/-- How many host actions a line becomes: a branch is one action whatever its target. -/
def lineSize (l : HostLine) : Nat := ((lineActions (fun _ => some 0) 0 l).getD []).length

/-- The line that label `l` stands for in a program that begins at `base`. -/
def labelAt (l : Nat) : Nat → List HostLine → Option Nat
  | _, [] => none
  | base, .label m :: rest => if m = l then some base else labelAt l base rest
  | base, h :: rest => labelAt l (base + lineSize h) rest

/-- The host actions of the lines of a program from `base` on. -/
def assembleFrom (find : Nat → Option Nat) : Nat → List HostLine → Option (List HostAction)
  | _, [] => some []
  | base, h :: rest =>
    match lineActions find base h, assembleFrom find (base + lineSize h) rest with
    | some acts, some more => some (acts ++ more)
    | _, _ => none

/-- A host program as host actions; none if a branch names a label that no line defines. -/
def assemble (p : List HostLine) : Option (List HostAction) := assembleFrom (fun l => labelAt l 0 p) 0 p

end Sys2Proof.Machine
end

