-- ==== Sys2Proof/Machine/Sequencer.lean ====
section
/-!
DEFINITION. The sequencer's step (42_round_sequencer.md R158): fetch the stage that DIR and STG select from the control ROM,
decode and execute its micro-ops in order, and count the stage unless FIN ended it.
-/

namespace Sys2Proof.Machine

/-- Decode one UOP word and execute it; a reserved word is refused by name (R79). -/
def runWord (w : BitVec 8) (s : State) : Host.Outcome State Fault Refusal :=
  match decodeUop w with
  | .ok i => exec i s
  | .error _ => .refused (.reservedUop w)

/-- Execute words in order, each seeing what its predecessor wrote (R158). -/
def runWords : List (BitVec 8) → State → Host.Outcome State Fault Refusal
  | [], s => .next s
  | w :: ws, s =>
    match runWord w s with
    | .next t => runWords ws t
    | .fault f => .fault f
    | .refused r => .refused r

/-- The words of a stage, then `STG + 1` unless they end in FIN (R158). -/
def runStage (words : List (BitVec 8)) (s : State) : Host.Outcome State Fault Refusal :=
  match runWords words s with
  | .next t => if endsInFin words then .next t else .next t.nextStage
  | .fault f => .fault f
  | .refused r => .refused r

/-- The sequencer's turn. It has a step exactly when BUSY = 1 (R158) and RST is not asserted (R221); otherwise its turn
passes and nothing changes. -/
def stageStep (s : State) : Host.Outcome State Fault Refusal :=
  if s.busy && !s.rst then
    match stageWords s.dir s.stg with
    | some words => runStage words s
    | none => .refused (.reservedStage s.stg)
  else .next s

/-- A word in the micro-op slot (log 8) goes through the same decoder, unless RST is asserted (R221). -/
def slotStep (w : BitVec 8) (s : State) : Host.Outcome State Fault Refusal :=
  if s.rst then .next s.clearSlot else runWord w s.clearSlot

end Sys2Proof.Machine
end

