-- ==== Sys2Proof/Machine/Step.lean ====
section
/-!
DEFINITION. One step of the machine: a word in the micro-op slot if there is one (log 8), otherwise the move of the agent whose
turn it is (10_state.md R20, 43_host_interface.md R184).
-/

namespace Sys2Proof.Machine

/-- One step. -/
def step (s : State) : Host.Outcome State Fault Refusal :=
  match s.uopSlot with
  | some w => slotStep w s
  | none =>
    match nextAgent s with
    | .sequencer => stageStep s.popSched
    | .host => hostStep s.popSched

/-- The state with the opcode-table word `w` placed so that the next step runs it: a command as the host's next action, with
the port values as they stand, a micro-op in the slot (log 8). RST is released, since nothing runs while it is asserted. -/
def State.withFetchWord (s : State) (nbits w : Nat) : State :=
  match tableWord nbits w with
  | some (.cmd c) =>
    { s with rst := false, uopSlot := none, sched := .host :: s.sched,
             host := { s.host with prog := [.issue c s.din s.kin], pc := 0 } }
  | some (.uop u) => { s with rst := false, uopSlot := some u }
  | none => s

end Sys2Proof.Machine
end

