-- ==== Sys2Proof/Safety.lean ====
section
/-!
DEFINITION. The terms that claims about the machine use: agreement of registers, the invariants of 10_state.md R44, an operation
in flight (42_round_sequencer.md R162), runs of steps, and the control programs by mnemonic (R153).
-/

namespace Sys2Proof.Machine

/-- The engine's registers (R21) are the same in two states, whatever the ports, the host and the order of moves. -/
abbrev SameRegisters (s t : State) : Prop :=
  t.st = s.st ∧ t.key = s.key ∧ t.w = s.w ∧ t.dir = s.dir ∧ t.stg = s.stg ∧ t.dout = s.dout ∧
  t.busy = s.busy ∧ t.done = s.done ∧ t.err = s.err ∧ t.errcode = s.errcode

/-- Every register holds its reset value of R41. -/
abbrev RegistersAtReset (s : State) : Prop :=
  s.busy = false ∧ s.done = false ∧ s.err = false ∧ s.errcode = 0#2 ∧ s.stg = 0#3 ∧ s.dir = 0#1 ∧
  s.dout.written = false ∧ s.st.written = false ∧ s.key.written = false ∧ ∀ i, i < 10 → (s.word i).written = false

/-- The invariants (a) to (f) of R44. -/
abbrev Consistent (s : State) : Prop :=
  (s.busy = true → s.done = false) ∧
  (s.busy = false → s.stg = 0#3) ∧
  s.stg.toNat ≤ 4 ∧
  (s.err = false ↔ s.errcode = 0#2) ∧
  s.errcode ≠ 3#2 ∧
  (s.busy = true → s.st.written = true ∧ s.key.written = true ∧ ∀ i, i < 10 → (s.word i).written = true)

/-- The result of an operation in the direction `d` on block `x` under key `k` (R162). -/
def resultWord (d : BitVec 1) (x k : PortWord) : PortWord :=
  if d = 0#1 then encWord Config.params x k else decWord Config.params x k

/-- An operation in the direction `d` on block `x` under key `k` is running and has completed its first STG stages. -/
def InFlight (d : BitVec 1) (x k : PortWord) (s : State) : Prop :=
  s.busy = true ∧ s.done = false ∧ s.dir = d ∧ s.stg.toNat ≤ 4 ∧ s.rst = false ∧
  s.key = Reg.holding (unpack k) ∧
  (∀ i, i < 10 → s.word i = Reg.holding (keyWord Config.params (unpack k) i)) ∧
  s.st = Reg.holding (afterStages Config.params d (unpack k) (unpack x) s.stg.toNat)

/-- The host's next line. -/
def nextLine (s : State) : Option HostAction := s.host.prog[s.host.pc]?

/-- It is the host's turn and its next line is `a`. -/
abbrev HostDoes (a : HostAction) (s : State) : Prop :=
  s.uopSlot = none ∧ nextAgent s = .host ∧ nextLine s = some a

/-- It is the sequencer's turn. -/
abbrev SequencerMoves (s : State) : Prop := s.uopSlot = none ∧ nextAgent s = .sequencer

/-- The host resets the engine in this step (R220). -/
abbrev HostResets (s : State) : Prop := HostDoes .reset s ∨ HostDoes .assertRst s

/-- The host issues ENC or DEC and the engine accepts it in this step (R155). -/
def Accepts (s : State) : Prop :=
  ∃ c x k, HostDoes (.issue c x k) s ∧ (c = 0b01#2 ∨ c = 0b10#2) ∧ s.busy = false ∧ s.rst = false

/-- The host issues a command that the engine rejects with the code `code` in this step (R201, R202, R205). -/
def Rejects (code : BitVec 2) (s : State) : Prop :=
  ∃ c x k, HostDoes (.issue c x k) s ∧ s.rst = false ∧
    ((c ≠ 0b00#2 ∧ s.busy = true ∧ code = 2#2) ∨ (c = 0b11#2 ∧ s.busy = false ∧ code = 1#2))

/-- `n` turns of the sequencer in a row. -/
def stageTurns : Nat → State → Host.Outcome State Fault Refusal
  | 0, s => .next s
  | n + 1, s =>
    match stageStep s with
    | .next t => stageTurns n t
    | .fault f => .fault f
    | .refused r => .refused r

/-- `n` steps of the machine. -/
def stepMany : Nat → State → Host.Outcome State Fault Refusal
  | 0, s => .next s
  | n + 1, s =>
    match step s with
    | .next t => stepMany n t
    | .fault f => .fault f
    | .refused r => .refused r

/-- Instructions executed in order. -/
def execAll : List Instr → State → Host.Outcome State Fault Refusal
  | [], s => .next s
  | i :: is, s =>
    match exec i s with
    | .next t => execAll is t
    | .fault f => .fault f
    | .refused r => .refused r

/-- The micro-ops of stage `n` in the direction `d`, by the mnemonic column of R153. -/
def stageInstrs (d : BitVec 1) (n : Nat) : List Instr :=
  if d = 0#1 then
    match n with
    | 0 => [.ark 0#4]
    | 1 => [.sub, .shr, .mix, .ark 1#4]
    | 2 => [.sub, .shr, .mix, .ark 2#4]
    | 3 => [.sub, .shr, .mix, .ark 3#4]
    | 4 => [.sub, .shr, .ark 4#4, .fin]
    | _ => []
  else
    match n with
    | 0 => [.ark 4#4, .shr, .isub]
    | 1 => [.ark 3#4, .imix, .shr, .isub]
    | 2 => [.ark 2#4, .imix, .shr, .isub]
    | 3 => [.ark 1#4, .imix, .shr, .isub]
    | 4 => [.ark 0#4, .fin]
    | _ => []

/-- A bit as an element of GF(2). -/
def bitToGf2 (b : Bool) : ZMod 2 := if b then 1 else 0

/-- The bit vector of a Column over GF(2) (R56). -/
def gf2Vec (c : Column) : Fin 8 → ZMod 2 := fun i => bitToGf2 (vec c i)

/-- Row `i` of a matrix read as a Column (R133). -/
def rowColumn (M : Matrix (Fin 8) (Fin 8) (ZMod 2)) (i : Fin 8) : Column := unvec fun j => gf2Bit (M i j)

end Sys2Proof.Machine
end

