-- ==== Sys2Proof/Certificates/Slice0/Obligations.lean ====
section
/-!
DEFINITION. The statements for the provers, from the spec's numbered rules.
-/

open Sys2Proof Sys2Proof.Machine

/-! ### Reset -/

/-- R41, R42, R222, R223: after reset every field holds R41's value, and with no host program (log 5, the model's choice) the
engine idles. -/
def Obligations.ResetStateHoldsTheSpecValues : Prop :=
  RegistersAtReset State.reset ∧ State.reset.status = 0x00#8 ∧ step State.reset = .next State.reset

/-- R220: the reset event, from every state and whether RST is pulsed or kept asserted, is one step that puts every register into
its value of R41. The tables and the control programs are no part of State. -/
def Obligations.ResetEventFromEveryState : Prop :=
  ∀ s, HostResets s → ∃ t, step s = .next t ∧ RegistersAtReset t ∧ t.status = 0x00#8

/-- R35, R37, with logs 5, 6 and 13 (the model's choices): a RESET touches neither the ports nor what the host remembers. -/
def Obligations.ResetLeavesPortsAndHost : Prop :=
  ∀ s, HostDoes .reset s → ∃ t, step s = .next t ∧ t.din = s.din ∧ t.kin = s.kin ∧ t.rst = s.rst ∧ t.uopSlot = none ∧
    t.host = { s.host with pc := s.host.pc + 1 } ∧ t.sched = s.sched.tail

/-- R221, R205 (how RST is held is log 13, the model's choice): while RST is asserted no step changes a register, but for a further
reset, and a command is not sampled. -/
def Obligations.HeldResetStopsTheEngine : Prop :=
  ∀ s, s.rst = true →
    (∀ t, step s = .next t → SameRegisters s t ∨ RegistersAtReset t) ∧
    (∀ c x k, HostDoes (.issue c x k) s → ∃ t, step s = .next t ∧ SameRegisters s t) ∧
    (SequencerMoves s → ∃ t, step s = .next t ∧ SameRegisters s t)

/-! ### Encodings -/

/-- R71, R74, R84: a few words written out from the tables decode to the instructions they stand for. -/
def Obligations.TableWordsDecode : Prop :=
  decode (.cmd 0b00#2) = .ok .nop ∧ decode (.cmd 0b01#2) = .ok .enc ∧ decode (.cmd 0b10#2) = .ok .dec ∧
  decode (.cmd 0b11#2) = .ok .rsvdCmd ∧ decode (.uop 0b00000011#8) = .ok (.ark 3#4) ∧
  decode (.uop 0b00010000#8) = .ok .sub ∧ decode (.uop 0b00100000#8) = .ok .isub ∧
  decode (.uop 0b00110000#8) = .ok .shr ∧ decode (.uop 0b01000000#8) = .ok .mix ∧
  decode (.uop 0b01010000#8) = .ok .imix ∧ decode (.uop 0b01100111#8) = .ok (.kw 7#4) ∧
  decode (.uop 0b01110000#8) = .ok .fin

/-- R71, R74: decoding an encoded well-formed instruction, of either format and with every index, gives it back. -/
def Obligations.DecodeEncodeAgree : Prop :=
  ∀ i : Instr, i.wf = true → decode (encode i) = .ok i

/-- R71, R74: a word that decodes has one meaning: its instruction is well-formed and encodes to that word. -/
def Obligations.DecodedWordIsItsEncoding : Prop :=
  ∀ (r : RawWord) (i : Instr), decode r = .ok i → i.wf = true ∧ encode i = r

/-- R79: exactly the four kinds of reserved words are refused by the decoder, by name; the control programs hold none of them;
and no step of a consistent machine runs one. -/
def Obligations.ReservedMicroOpsRefused : Prop :=
  (∀ op idx : BitVec 4,
    ((∃ e, decodeUop (op ++ idx) = .error e) ↔
      (8 ≤ op.toNat ∨ (op = 0x0#4 ∧ 5 ≤ idx.toNat) ∨
       (op = 0x6#4 ∧ (idx.toNat ≤ 1 ∨ 10 ≤ idx.toNat)) ∨
       (op ∈ [0x1#4, 0x2#4, 0x3#4, 0x4#4, 0x5#4, 0x7#4] ∧ idx ≠ 0#4)))) ∧
  (∀ d stg ws w, stageWords d stg = some ws → w ∈ ws → ∃ i, decodeUop w = .ok i) ∧
  (∀ w ∈ kxWords, ∃ i, decodeUop w = .ok i) ∧
  (∀ s w, Consistent s → s.uopSlot = none → step s ≠ .refused (.reservedUop w))

/-- R79, U7, with log 12 (the model's name for the refusal): a reserved word that is run all the same is refused by name, and so
are ARK and KW with a reserved index. -/
def Obligations.ReservedIndexRefused : Prop :=
  (∀ w s e, decodeUop w = .error e → runWord w s = .refused (.reservedUop w)) ∧
  (∀ (idx : BitVec 4) (s : State), 5 ≤ idx.toNat → exec (.ark idx) s = .refused (.reservedUop (0x0#4 ++ idx))) ∧
  (∀ (idx : BitVec 4) (s : State), idx.toNat ≤ 1 ∨ 10 ≤ idx.toNat →
    exec (.kw idx) s = .refused (.reservedUop (0x6#4 ++ idx)))

/-- R52, R53: the four fields of `unpack`, `pack` as a number and per byte, and `pack` as the exact inverse of `unpack`. -/
def Obligations.PackIsTheInverseOfUnpack : Prop :=
  (∀ x : PortWord, unpack x =
    ⟨⟨x.extractLsb' 12 4, x.extractLsb' 8 4⟩, ⟨x.extractLsb' 4 4, x.extractLsb' 0 4⟩⟩) ∧
  (∀ b : Block, (pack b).toNat =
    b.c0.n0.toNat * 2 ^ 12 + b.c0.n1.toNat * 2 ^ 8 + b.c1.n0.toNat * 2 ^ 4 + b.c1.n1.toNat) ∧
  (∀ b : Block, (byte0 (pack b)).toNat = b.c0.n0.toNat * 16 + b.c0.n1.toNat ∧
    (byte1 (pack b)).toNat = b.c1.n0.toNat * 16 + b.c1.n1.toNat) ∧
  (∀ x : PortWord, pack (unpack x) = x) ∧ (∀ b : Block, unpack (pack b) = b)

/-! ### The micro-ops: result, completion and frame -/

/-- R120: SUB is the word 0x10; it completes in every state, changes nothing but ST, and puts SBOX of each lane into that lane. -/
def Obligations.SubReplacesEachLane : Prop :=
  encode .sub = .uop 0x10#8 ∧ ∀ s : State, ∃ t, exec .sub s = .next t ∧ t = { s with st := t.st } ∧
    ∀ b, s.st = .holding b → ∃ b', t.st = .holding b' ∧ ∀ c r, cell b' c r = Config.params.sbox (cell b c r)

/-- R122: ISUB is the word 0x20; it completes in every state, changes nothing but ST, and puts into each lane the unique nibble
whose SBOX value the lane held. -/
def Obligations.IsubReplacesEachLane : Prop :=
  encode .isub = .uop 0x20#8 ∧ ∀ s : State, ∃ t, exec .isub s = .next t ∧ t = { s with st := t.st } ∧
    ∀ b, s.st = .holding b → ∃ b', t.st = .holding b' ∧
      ∀ c r y, cell b' c r = y ↔ Config.params.sbox y = cell b c r

/-- R125: SHR is the word 0x30; it completes in every state, changes nothing but ST, exchanges ST[0][1] with ST[1][1], and so
permutes the word's nibbles as the rule's word form says. -/
def Obligations.ShrPermutesTheNibbles : Prop :=
  encode .shr = .uop 0x30#8 ∧ ∀ s : State, ∃ t, exec .shr s = .next t ∧ t = { s with st := t.st } ∧
    (∀ a b c d, s.st = .holding ⟨⟨a, b⟩, ⟨c, d⟩⟩ → t.st = .holding ⟨⟨a, d⟩, ⟨c, b⟩⟩) ∧
    ∀ x : PortWord, s.st = .holding (unpack x) →
      pack t.st.val = x.extractLsb' 12 4 ++ x.extractLsb' 0 4 ++ x.extractLsb' 4 4 ++ x.extractLsb' 8 4

/-- R131 (with R130): MIX is the word 0x40; it completes in every state, changes nothing but ST, and multiplies each column's bit
vector by MIX_T over GF(2). -/
def Obligations.MixMultipliesEachColumn : Prop :=
  encode .mix = .uop 0x40#8 ∧ ∀ s : State, ∃ t, exec .mix s = .next t ∧ t = { s with st := t.st } ∧
    ∀ b, s.st = .holding b → ∃ b', t.st = .holding b' ∧
      gf2Vec b'.c0 = Matrix.vecMul (gf2Vec b.c0) Config.params.mixT.val ∧
      gf2Vec b'.c1 = Matrix.vecMul (gf2Vec b.c1) Config.params.mixT.val

/-- R132 (with R130): IMIX is the word 0x50 and does likewise with the inverse matrix. -/
def Obligations.ImixMultipliesEachColumn : Prop :=
  encode .imix = .uop 0x50#8 ∧ ∀ s : State, ∃ t, exec .imix s = .next t ∧ t = { s with st := t.st } ∧
    ∀ b, s.st = .holding b → ∃ b', t.st = .holding b' ∧
      gf2Vec b'.c0 = Matrix.vecMul (gf2Vec b.c0) (Config.params.mixT⁻¹).val ∧
      gf2Vec b'.c1 = Matrix.vecMul (gf2Vec b.c1) (Config.params.mixT⁻¹).val

/-- R136: ARK k<i>, i = 0..4, is the word 0x00 | i; it completes in every state, changes nothing but ST, and xors the packed word
of ST with that of the round key. -/
def Obligations.ArkXorsTheRoundKey : Prop :=
  ∀ (s : State) (idx : BitVec 4), idx.toNat ≤ 4 → encode (.ark idx) = .uop (0x0#4 ++ idx) ∧
    ∃ t, exec (.ark idx) s = .next t ∧ t = { s with st := t.st } ∧
    ∀ b w0 w1, s.st = .holding b → s.word (2 * idx.toNat) = .holding w0 → s.word (2 * idx.toNat + 1) = .holding w1 →
      ∃ b', t.st = .holding b' ∧ pack b' = pack b ^^^ pack ⟨w0, w1⟩

/-- R105: KW w<i>, i = 2..9, is the word 0x60 | i; it completes in every state and changes nothing but the word register W[i],
which gets the odd or the even rule's value. -/
def Obligations.KwComputesOneWord : Prop :=
  ∀ (s : State) (idx : BitVec 4), 2 ≤ idx.toNat → idx.toNat ≤ 9 → encode (.kw idx) = .uop (0x6#4 ++ idx) ∧
    ∃ t, exec (.kw idx) s = .next t ∧ t = { s with w := t.w } ∧ (∀ j, j ≠ idx.toNat → t.word j = s.word j) ∧
    ∀ a b p q : Nibble, s.word (idx.toNat - 2) = .holding ⟨a, b⟩ → s.word (idx.toNat - 1) = .holding ⟨p, q⟩ →
      t.word idx.toNat = .holding
        (if idx.toNat % 2 = 1 then ⟨a ^^^ p, b ^^^ q⟩
         else ⟨a ^^^ Config.params.sbox q ^^^ BitVec.ofNat 4 (2 ^ (idx.toNat / 2 - 1)), b ^^^ Config.params.sbox p⟩)

/-- R161: FIN is the word 0x70 and stands in the last stage of each program only; it completes in every state: DOUT, BUSY, DONE
and STG are written together and nothing else changes, ERR and ERRCODE included. -/
def Obligations.FinPublishesTheResult : Prop :=
  encode .fin = .uop 0x70#8 ∧ (∀ d n, .fin ∈ stageInstrs d n ↔ n = 4) ∧
  ∀ s : State, ∃ t, exec .fin s = .next t ∧
    t = { s with dout := t.dout, busy := false, done := true, stg := 0#3 } ∧
    ∀ b, s.st = .holding b → t.dout = .holding (pack b)

/-- R123: ISUB undoes SUB and SUB undoes ISUB, the whole state restored. -/
def Obligations.SubAndIsubUndoEachOther : Prop :=
  ∀ s : State, (∃ t, exec .sub s = .next t ∧ exec .isub t = .next s) ∧ (∃ t, exec .isub s = .next t ∧ exec .sub t = .next s)

/-- R126, R137: SHR is its own inverse, and decryption's stages hold SHR itself; ARK with the same round key is its own inverse
too (the round key written, as in every state in which it runs). -/
def Obligations.ShrAndArkAreInvolutions : Prop :=
  (∀ s : State, ∃ t, exec .shr s = .next t ∧ exec .shr t = .next s) ∧ (∀ n, n < 4 → .shr ∈ stageInstrs 1#1 n) ∧
  (∀ (s : State) (idx : BitVec 4), idx.toNat ≤ 4 → (s.roundKey idx.toNat).written = true →
    ∃ t, exec (.ark idx) s = .next t ∧ exec (.ark idx) t = .next s)

/-- R134: IMIX undoes MIX and MIX undoes IMIX, the whole state restored. -/
def Obligations.MixAndImixUndoEachOther : Prop :=
  ∀ s : State, (∃ t, exec .mix s = .next t ∧ exec .imix t = .next s) ∧ (∃ t, exec .imix s = .next t ∧ exec .mix t = .next s)

/-- R133: `mixcol` is linear, and is the exclusive or of the rows that the input vector selects. -/
def Obligations.MixcolIsLinear : Prop :=
  ∀ (M : Matrix (Fin 8) (Fin 8) (ZMod 2)),
    (∀ c d, mixcol M (c.xor d) = (mixcol M c).xor (mixcol M d)) ∧ mixcol M zeroColumn = zeroColumn ∧
    ∀ c, mixcol M c =
      (List.finRange 8).foldl (fun acc i => if vec c i then acc.xor (rowColumn M i) else acc) zeroColumn

/-! ### Commands -/

/-- R164, R78: NOP is the command 00; it completes in every state with nothing changed, whether BUSY is 0 or 1, and a host that
issues it changes no register whatever it puts on DIN and KIN. -/
def Obligations.NopChangesNothing : Prop :=
  encode .nop = .cmd 0b00#2 ∧ ∀ s : State, exec .nop s = .next s ∧
    ∀ x k, HostDoes (.issue 0b00#2 x k) s → ∃ t, step s = .next t ∧ SameRegisters s t

/-- R155, R156, R157: ENC and DEC while BUSY = 0: one step latches block and key from the ports, writes the ten words of the key
schedule, sets DIR, STG and the flags, and leaves everything else, DOUT included. -/
def Obligations.AcceptanceLatchesAndExpands : Prop :=
  ∀ (s : State) (i : Instr) (d : BitVec 1), (i = .enc ∧ d = 0#1) ∨ (i = .dec ∧ d = 1#1) → s.busy = false →
    ∃ t, exec i s = .next t ∧
      t = { s with st := t.st, key := t.key, w := t.w, dir := d, stg := 0#3,
                   busy := true, done := false, err := false, errcode := 0#2 } ∧
      t.st = .holding (unpack s.din) ∧ t.key = .holding (unpack s.kin) ∧
      ∀ j, j < 10 → t.word j = .holding (keyWord Config.params (unpack s.kin) j)

/-- R202: any command other than NOP while BUSY = 1 sets ERR and ERRCODE = 2 and changes nothing else, so the running operation
is still that of its own inputs; and so for a host's Issue, whose DIN and KIN reach no register. -/
def Obligations.CommandWhileBusyIsRejected : Prop :=
  (∀ (s : State) (i : Instr), i = .enc ∨ i = .dec ∨ i = .rsvdCmd → s.busy = true →
    exec i s = .next { s with err := true, errcode := 2#2 }) ∧
  (∀ (s : State) (c : BitVec 2) (x k : PortWord), c ≠ 0b00#2 → HostDoes (.issue c x k) s → s.rst = false → s.busy = true →
    ∃ t, step s = .next t ∧ SameRegisters { s with err := true, errcode := 2#2 } t ∧
      ∀ d y l, InFlight d y l s → InFlight d y l t)

/-- R201: the reserved command while BUSY = 0 sets ERR and ERRCODE = 1 and changes nothing else: no operation starts. -/
def Obligations.ReservedCommandWhenIdle : Prop :=
  (∀ s : State, s.busy = false → exec .rsvdCmd s = .next { s with err := true, errcode := 1#2 }) ∧
  (∀ (s : State) (x k : PortWord), HostDoes (.issue 0b11#2 x k) s → s.rst = false → s.busy = false →
    ∃ t, step s = .next t ∧ SameRegisters { s with err := true, errcode := 1#2 } t)

/-- R181: what the engine answers to Issue(c, x, k), case by case in the rule's order, while RST is not asserted. -/
def Obligations.IssueAnswersByPriority : Prop :=
  ∀ (s : State) (c : BitVec 2) (x k : PortWord), s.rst = false →
    (c = 0b00#2 → issue c x k s = .next { s with din := x, kin := k }) ∧
    (c ≠ 0b00#2 → s.busy = true →
      issue c x k s = .next { s with din := x, kin := k, err := true, errcode := 2#2 }) ∧
    (c = 0b11#2 → s.busy = false →
      issue c x k s = .next { s with din := x, kin := k, err := true, errcode := 1#2 }) ∧
    (c = 0b01#2 ∨ c = 0b10#2 → s.busy = false → ∃ t, issue c x k s = .next t ∧
      t = { s with st := t.st, key := t.key, w := t.w, dir := t.dir, stg := 0#3, busy := true, done := false,
                   err := false, errcode := 0#2, din := x, kin := k } ∧
      InFlight (if c = 0b10#2 then 1#1 else 0#1) x k t)

/-! ### A step runs what it should -/

/-- R181, R20: when the host's line issues the command word c, the step is `exec` of what c decodes to, in the state with the
ports driven, the host at its next line and the turn used up. -/
def Obligations.StepRunsTheIssuedCommand : Prop :=
  ∀ (s : State) (c : BitVec 2) (x k : PortWord), HostDoes (.issue c x k) s → s.rst = false →
    step s = exec (decodeCmd c)
      { s with din := x, kin := k, host := { s.host with pc := s.host.pc + 1 }, sched := s.sched.tail }

/-- R153, R158: the sequencer's step while BUSY = 1 is `exec` of the stage's micro-ops in the table's order, then STG + 1 unless
FIN ended the stage; while BUSY = 0 the sequencer has no step. -/
def Obligations.StepRunsTheStage : Prop :=
  ∀ s : State, SequencerMoves s → s.rst = false →
    (s.busy = true → s.stg.toNat ≤ 4 →
      ∃ t, execAll (stageInstrs s.dir s.stg.toNat) { s with sched := s.sched.tail } = .next t ∧
        step s = .next (if s.stg = 4#3 then t else { t with stg := s.stg + 1#3 })) ∧
    (s.busy = false → step s = .next { s with sched := s.sched.tail })

/-- Log 8, 9 (the model's own): a word placed by `withFetchWord` is what the next step decodes and executes. -/
def Obligations.StepRunsThePlacedWord : Prop :=
  (∀ (s : State) (w : Nat) (i : Instr), 4 ≤ w → w < 256 → decodeUop (BitVec.ofNat 8 w) = .ok i →
    step (s.withFetchWord 8 w) = exec i { s with rst := false, uopSlot := none }) ∧
  (∀ (s : State) (w : Nat), w < 4 →
    step (s.withFetchWord 8 w) = exec (decodeCmd (BitVec.ofNat 2 w))
      { s with rst := false, uopSlot := none, host := { s.host with prog := [.issue (BitVec.ofNat 2 w) s.din s.kin], pc := 1 } })

/-! ### STATUS, host reads and the fault -/

/-- R33, R34: the layout of the STATUS word, and the rule's three examples. -/
def Obligations.StatusWordLayout : Prop :=
  ∀ s : State,
    s.status.extractLsb' 5 3 = 0#3 ∧ s.status.extractLsb' 3 2 = s.errcode ∧ s.status.getLsbD 2 = s.err ∧
    s.status.getLsbD 1 = s.done ∧ s.status.getLsbD 0 = s.busy ∧
    (s.status = 0x02#8 ↔ s.busy = false ∧ s.done = true ∧ s.err = false ∧ s.errcode = 0#2) ∧
    (s.status = 0x01#8 ↔ s.busy = true ∧ s.done = false ∧ s.err = false ∧ s.errcode = 0#2) ∧
    (s.status = 0x15#8 ↔ s.busy = true ∧ s.done = false ∧ s.err = true ∧ s.errcode = 2#2)

/-- R182 (and of R58 and R226, the part on reads and on ports): a read of STATUS gives the host the STATUS word and changes no
register; neither does a change of DIN and KIN alone. -/
def Obligations.HostReadsAndPortChangesHaveNoEffect : Prop :=
  ∀ s : State,
    (HostDoes .readStatus s → ∃ t, step s = .next t ∧ SameRegisters s t ∧ t.host.lastStatus = some s.status) ∧
    (∀ x k, HostDoes (.drive x k) s → ∃ t, step s = .next t ∧ SameRegisters s t ∧ t.din = x ∧ t.kin = k)

/-- R183: a read of DOUT, whether BUSY is 0 or 1, gives the host the register and changes no register; while DOUT is ⊥ it is the
fault `DoutUnwritten`. -/
def Obligations.ReadDoutReturnsDoutOrFaults : Prop :=
  ∀ s : State, HostDoes .readDout s →
    (∀ v, s.dout = .holding v → ∃ t, step s = .next t ∧ SameRegisters s t ∧ t.host.lastDout = some v) ∧
    (s.dout.written = false → step s = .fault .doutUnwritten)

/-- R186, R140, R187: in a consistent state every step gives a next state, but for the one fault of R186; nothing is refused and
nothing is stuck. -/
def Obligations.OnlyTheUnwrittenReadStops : Prop :=
  ∀ s : State, Consistent s → s.uopSlot = none →
    (∃ t, step s = .next t) ∨
    (step s = .fault .doutUnwritten ∧ HostDoes .readDout s ∧ s.dout.written = false)

/-! ### Invariants and whole-machine rules -/

/-- R44: the invariants hold at reset. -/
def Obligations.ConsistentAtReset : Prop :=
  ∀ (h : HostAgent) (l : List Agent), Consistent { State.reset with host := h, sched := l }

/-- R44: every step of the machine keeps the invariants, from every state that has them. -/
def Obligations.EveryStepKeepsConsistent : Prop :=
  ∀ s t : State, Consistent s → step s = .next t → Consistent t

/-- R30, R185: DONE = 1 means DOUT holds a result, in every state that a step makes from such a state, so a host that has read
DONE = 1 can read DOUT. -/
def Obligations.DoneMeansDoutIsWritten : Prop :=
  ∀ s t : State, Consistent s → s.uopSlot = none → (s.done = true → s.dout.written = true) → step s = .next t →
    t.uopSlot = none ∧ (t.done = true → t.dout.written = true) ∧
    (HostDoes .readDout t → t.done = true → ∃ u, step t = .next u ∧ u.host.lastDout = some t.dout.val)

/-- R28, R163: DOUT changes only by a reset or by the sequencer's stage S4, which writes the packed ST, sets DONE and clears
BUSY. -/
def Obligations.DoutChangesOnlyAtFin : Prop :=
  ∀ s t : State, s.uopSlot = none → step s = .next t → t.dout ≠ s.dout →
    HostResets s ∨
    (SequencerMoves s ∧ s.busy = true ∧ s.stg = 4#3 ∧ t.dout = t.st.map pack ∧ t.done = true ∧ t.busy = false)

/-- R31, R32, R204, R207: ERR stays set until an acceptance or a reset clears it with ERRCODE; till then a step that rejects a
command writes that rejection's code to ERRCODE, and every other step leaves ERRCODE as it was. -/
def Obligations.ErrorsAreSticky : Prop :=
  ∀ s t : State, s.uopSlot = none → s.err = true → step s = .next t →
    (t.err = true ∧ (Rejects t.errcode s ∨ ((∀ code, ¬ Rejects code s) ∧ t.errcode = s.errcode))) ∨
    ((Accepts s ∨ HostResets s) ∧ t.err = false ∧ t.errcode = 0#2)

/-- R23, R24, R26: nothing but an acceptance or a reset changes KEY, the word file or DIR. -/
def Obligations.KeyMaterialChangesOnlyAtAcceptance : Prop :=
  ∀ s t : State, s.uopSlot = none → step s = .next t → t.key ≠ s.key ∨ t.w ≠ s.w ∨ t.dir ≠ s.dir →
    Accepts s ∨ HostResets s

/-- R187: an idle engine whose host program has ended has no step: the machine stays as it is. -/
def Obligations.QuiescentMachineStays : Prop :=
  ∀ s : State, s.uopSlot = none → s.busy = false → nextLine s = none →
    step s = .next { s with sched := s.sched.tail }

/-! ### The cipher -/

/-- R162: an acceptance starts the operation of the sampled block x under the sampled key k in the command's direction; and while
that operation is running, every step that is not a reset, whatever the host does, leaves it running or completes it with
DOUT = Enc(x, k) or Dec(x, k), BUSY = 0 and DONE = 1. -/
def Obligations.RunningOperationReachesItsResult : Prop :=
  (∀ (s : State) (c : BitVec 2) (x k : PortWord), HostDoes (.issue c x k) s → c = 0b01#2 ∨ c = 0b10#2 → s.busy = false →
    s.rst = false → ∃ t, step s = .next t ∧ InFlight (if c = 0b10#2 then 1#1 else 0#1) x k t) ∧
  (∀ (d : BitVec 1) (x k : PortWord) (s t : State), InFlight d x k s → s.uopSlot = none → ¬ HostResets s → step s = .next t →
    t.uopSlot = none ∧
    (InFlight d x k t ∨
      (t.busy = false ∧ t.done = true ∧ t.stg = 0#3 ∧ t.dout = .holding (resultWord d x k) ∧
       t.err = s.err ∧ t.errcode = s.errcode)))

/-- R163, R185, R60: after a FIN, DONE, DOUT and BUSY = 0 stay through every step that is neither an acceptance nor a reset, so
the result read then is that of the most recently accepted command. -/
def Obligations.ResultStaysUntilTheNextAcceptance : Prop :=
  ∀ s t : State, s.uopSlot = none → s.busy = false → s.done = true → ¬ Accepts s → ¬ HostResets s → step s = .next t →
    t.uopSlot = none ∧ t.busy = false ∧ t.done = true ∧ t.dout = s.dout

/-- R151, R154, R156, R157, R168: from every idle state ENC and DEC are accepted and five stage steps later DOUT holds the cipher
of the port words, whatever the engine held before. -/
def Obligations.CommandsComputeTheCipher : Prop :=
  ∀ s : State, s.busy = false → s.rst = false →
    (∃ a t, exec .enc s = .next a ∧ stageTurns 5 a = .next t ∧
      t.dout = .holding (encWord Config.params s.din s.kin) ∧ t.status = 0x02#8) ∧
    (∃ a t, exec .dec s = .next a ∧ stageTurns 5 a = .next t ∧
      t.dout = .holding (decWord Config.params s.din s.kin) ∧ t.status = 0x02#8)

/-- R160, R227, R152: from stage j a running command takes exactly 5 - j stage steps, counting STG up while BUSY stays 1 and
DOUT stays, and the last of them finishes; ERR and ERRCODE stay. -/
def Obligations.FiveStagesPerCommand : Prop :=
  ∀ s : State, s.busy = true → s.rst = false → s.stg.toNat ≤ 4 →
    (∀ n, n < 5 - s.stg.toNat → ∃ u, stageTurns n s = .next u ∧ u.busy = true ∧ u.stg.toNat = s.stg.toNat + n ∧ u.dout = s.dout) ∧
    (∃ t, stageTurns (5 - s.stg.toNat) s = .next t ∧ t.busy = false ∧ t.done = true ∧ t.stg = 0#3 ∧
      t.err = s.err ∧ t.errcode = s.errcode)

/-- R160: what the sequencer does next depends on BUSY, DIR and STG alone: two states that agree on them (and on RST) agree on
them after a stage step, whatever block, key and words they hold. -/
def Obligations.ControlIgnoresData : Prop :=
  ∀ s₁ s₂ t₁ : State, s₁.busy = s₂.busy → s₁.dir = s₂.dir → s₁.stg = s₂.stg → s₁.rst = s₂.rst → stageStep s₁ = .next t₁ →
    ∃ t₂, stageStep s₂ = .next t₂ ∧ t₁.busy = t₂.busy ∧ t₁.dir = t₂.dir ∧ t₁.stg = t₂.stg

/-- R184: however many host actions come between, a running command ends: within as many steps as the order of moves is long,
and five more, BUSY is 0, unless the host read an unwritten DOUT. How the sequencer's fairness shows in one run is logs 6 and 7,
the model's choice. -/
def Obligations.EveryCommandEnds : Prop :=
  ∀ s : State, Consistent s → s.uopSlot = none → s.busy = true → s.rst = false →
    ∃ n, n ≤ s.sched.length + 5 ∧
      ((∃ t, stepMany n s = .next t ∧ t.busy = false) ∨ stepMany n s = .fault .doutUnwritten)

/-- R165: the round trip, for every admissible SBOX and MIX_T, every block and every key. -/
def Obligations.RoundTrip : Prop :=
  ∀ (P : Params) (x k : PortWord), decWord P (encWord P x k) k = x ∧ encWord P (decWord P x k) k = x

/-- R166: with MIX wrongly put into the final round of encryption, decryption gives every block back exactly when MIX_T is the
identity matrix. -/
def Obligations.MixInTheFinalRoundBreaksRoundTrip : Prop :=
  ∀ (P : Params) (key : Block), (∀ b, decBlock P key (encBlockInjected P key b) = b) ↔ P.mixT = 1

/-! ### Host programs and the byte-level calls -/

/-- R83: WAIT, RUN.ENC and RUN.DEC can be replaced by their expansions in every host program; WAIT's label is fresh: no line
of the program defines it or branches to it. -/
def Obligations.PseudoInstructionsExpand : Prop :=
  (∀ (p q : List HostLine) (l : Nat), (∀ h ∈ p ++ q, h ≠ .label l ∧ ∀ c, h ≠ .branch c l) →
    assemble (p ++ [.wait] ++ q) = assemble (p ++ [.label l, .readStatus, .branch .busy l] ++ q)) ∧
  (∀ (p q : List HostLine) (x k : PortWord),
    assemble (p ++ [.runEnc x k] ++ q) = assemble (p ++ [.enc x k, .wait, .readDout] ++ q) ∧
    assemble (p ++ [.runDec x k] ++ q) = assemble (p ++ [.dec x k, .wait, .readDout] ++ q))

/-- R203: wherever it stands, a byte-level call with a buffer whose length is not 2 is one action that returns both lengths,
issues no command and changes no register. -/
def Obligations.WrongLengthCallTouchesNothing : Prop :=
  (∀ (find : Nat → Option Nat) (base : Nat) (block key : List Byte), block.length ≠ 2 ∨ key.length ≠ 2 →
    lineActions find base (.encrypt block key) = some [.invalidInputSize block.length key.length] ∧
    lineActions find base (.decrypt block key) = some [.invalidInputSize block.length key.length]) ∧
  (∀ (s : State) (n m : Nat), HostDoes (.invalidInputSize n m) s →
    ∃ t, step s = .next t ∧ SameRegisters s t ∧ t.host.results = s.host.results ++ [.invalidInputSize n m])

/-- R188, R189, R54: a byte-level call on 2-byte buffers from an idle engine, with no other order of moves set, runs to the end in
ten steps and returns the bytes of the cipher's result. That the sequencer moves first while BUSY = 1 is log 7, the model's
choice. -/
def Obligations.ByteCallsReturnTheCipherBytes : Prop :=
  ∀ (s : State) (b0 b1 k0 k1 : Byte) (l : HostLine) (r : PortWord),
    (l = .encrypt [b0, b1] [k0, k1] ∧ r = encWord Config.params (b0 ++ b1) (k0 ++ k1)) ∨
    (l = .decrypt [b0, b1] [k0, k1] ∧ r = decWord Config.params (b0 ++ b1) (k0 ++ k1)) →
    s.busy = false → s.rst = false → s.uopSlot = none → s.sched = [] → assemble [l] = some s.host.prog → s.host.pc = 0 →
    ∃ t, stepMany 10 s = .next t ∧ t.busy = false ∧ nextLine t = none ∧
      t.host.results = s.host.results ++ [.bytes (r.extractLsb' 8 8) (r.extractLsb' 0 8)]
end

