-- ==== Sys2Proof/Laws/State.lean ====
section
/-!
SUPPORT. One lemma per field per update of the state, true by unfolding the one update, so that no later proof unfolds a
record update.
-/

namespace Sys2Proof.Machine.Laws

/-! ### setSt -/

section
variable (s : State) (r : Reg Block)

@[simp] theorem setSt_st : (s.setSt r).st = r := rfl
@[simp] theorem setSt_key : (s.setSt r).key = s.key := rfl
@[simp] theorem setSt_w : (s.setSt r).w = s.w := rfl
@[simp] theorem setSt_dir : (s.setSt r).dir = s.dir := rfl
@[simp] theorem setSt_stg : (s.setSt r).stg = s.stg := rfl
@[simp] theorem setSt_dout : (s.setSt r).dout = s.dout := rfl
@[simp] theorem setSt_busy : (s.setSt r).busy = s.busy := rfl
@[simp] theorem setSt_done : (s.setSt r).done = s.done := rfl
@[simp] theorem setSt_err : (s.setSt r).err = s.err := rfl
@[simp] theorem setSt_errcode : (s.setSt r).errcode = s.errcode := rfl
@[simp] theorem setSt_din : (s.setSt r).din = s.din := rfl
@[simp] theorem setSt_kin : (s.setSt r).kin = s.kin := rfl
@[simp] theorem setSt_rst : (s.setSt r).rst = s.rst := rfl
@[simp] theorem setSt_host : (s.setSt r).host = s.host := rfl
@[simp] theorem setSt_sched : (s.setSt r).sched = s.sched := rfl
@[simp] theorem setSt_uopSlot : (s.setSt r).uopSlot = s.uopSlot := rfl

end

/-! ### setWord -/

section
variable (s : State) (i : Nat) (r : Reg Column)

@[simp] theorem setWord_st : (s.setWord i r).st = s.st := rfl
@[simp] theorem setWord_key : (s.setWord i r).key = s.key := rfl
@[simp] theorem setWord_w : (s.setWord i r).w = s.w.setIfInBounds i r := rfl
@[simp] theorem setWord_dir : (s.setWord i r).dir = s.dir := rfl
@[simp] theorem setWord_stg : (s.setWord i r).stg = s.stg := rfl
@[simp] theorem setWord_dout : (s.setWord i r).dout = s.dout := rfl
@[simp] theorem setWord_busy : (s.setWord i r).busy = s.busy := rfl
@[simp] theorem setWord_done : (s.setWord i r).done = s.done := rfl
@[simp] theorem setWord_err : (s.setWord i r).err = s.err := rfl
@[simp] theorem setWord_errcode : (s.setWord i r).errcode = s.errcode := rfl
@[simp] theorem setWord_din : (s.setWord i r).din = s.din := rfl
@[simp] theorem setWord_kin : (s.setWord i r).kin = s.kin := rfl
@[simp] theorem setWord_rst : (s.setWord i r).rst = s.rst := rfl
@[simp] theorem setWord_host : (s.setWord i r).host = s.host := rfl
@[simp] theorem setWord_sched : (s.setWord i r).sched = s.sched := rfl
@[simp] theorem setWord_uopSlot : (s.setWord i r).uopSlot = s.uopSlot := rfl

end

/-! ### drivePorts -/

section
variable (s : State) (x k : PortWord)

@[simp] theorem drivePorts_st : (s.drivePorts x k).st = s.st := rfl
@[simp] theorem drivePorts_key : (s.drivePorts x k).key = s.key := rfl
@[simp] theorem drivePorts_w : (s.drivePorts x k).w = s.w := rfl
@[simp] theorem drivePorts_dir : (s.drivePorts x k).dir = s.dir := rfl
@[simp] theorem drivePorts_stg : (s.drivePorts x k).stg = s.stg := rfl
@[simp] theorem drivePorts_dout : (s.drivePorts x k).dout = s.dout := rfl
@[simp] theorem drivePorts_busy : (s.drivePorts x k).busy = s.busy := rfl
@[simp] theorem drivePorts_done : (s.drivePorts x k).done = s.done := rfl
@[simp] theorem drivePorts_err : (s.drivePorts x k).err = s.err := rfl
@[simp] theorem drivePorts_errcode : (s.drivePorts x k).errcode = s.errcode := rfl
@[simp] theorem drivePorts_din : (s.drivePorts x k).din = x := rfl
@[simp] theorem drivePorts_kin : (s.drivePorts x k).kin = k := rfl
@[simp] theorem drivePorts_rst : (s.drivePorts x k).rst = s.rst := rfl
@[simp] theorem drivePorts_host : (s.drivePorts x k).host = s.host := rfl
@[simp] theorem drivePorts_sched : (s.drivePorts x k).sched = s.sched := rfl
@[simp] theorem drivePorts_uopSlot : (s.drivePorts x k).uopSlot = s.uopSlot := rfl

end

/-! ### setRst -/

section
variable (s : State) (b : Bool)

@[simp] theorem setRst_st : (s.setRst b).st = s.st := rfl
@[simp] theorem setRst_key : (s.setRst b).key = s.key := rfl
@[simp] theorem setRst_w : (s.setRst b).w = s.w := rfl
@[simp] theorem setRst_dir : (s.setRst b).dir = s.dir := rfl
@[simp] theorem setRst_stg : (s.setRst b).stg = s.stg := rfl
@[simp] theorem setRst_dout : (s.setRst b).dout = s.dout := rfl
@[simp] theorem setRst_busy : (s.setRst b).busy = s.busy := rfl
@[simp] theorem setRst_done : (s.setRst b).done = s.done := rfl
@[simp] theorem setRst_err : (s.setRst b).err = s.err := rfl
@[simp] theorem setRst_errcode : (s.setRst b).errcode = s.errcode := rfl
@[simp] theorem setRst_din : (s.setRst b).din = s.din := rfl
@[simp] theorem setRst_kin : (s.setRst b).kin = s.kin := rfl
@[simp] theorem setRst_rst : (s.setRst b).rst = b := rfl
@[simp] theorem setRst_host : (s.setRst b).host = s.host := rfl
@[simp] theorem setRst_sched : (s.setRst b).sched = s.sched := rfl
@[simp] theorem setRst_uopSlot : (s.setRst b).uopSlot = s.uopSlot := rfl

end

/-! ### setHost -/

section
variable (s : State) (h : HostAgent)

@[simp] theorem setHost_st : (s.setHost h).st = s.st := rfl
@[simp] theorem setHost_key : (s.setHost h).key = s.key := rfl
@[simp] theorem setHost_w : (s.setHost h).w = s.w := rfl
@[simp] theorem setHost_dir : (s.setHost h).dir = s.dir := rfl
@[simp] theorem setHost_stg : (s.setHost h).stg = s.stg := rfl
@[simp] theorem setHost_dout : (s.setHost h).dout = s.dout := rfl
@[simp] theorem setHost_busy : (s.setHost h).busy = s.busy := rfl
@[simp] theorem setHost_done : (s.setHost h).done = s.done := rfl
@[simp] theorem setHost_err : (s.setHost h).err = s.err := rfl
@[simp] theorem setHost_errcode : (s.setHost h).errcode = s.errcode := rfl
@[simp] theorem setHost_din : (s.setHost h).din = s.din := rfl
@[simp] theorem setHost_kin : (s.setHost h).kin = s.kin := rfl
@[simp] theorem setHost_rst : (s.setHost h).rst = s.rst := rfl
@[simp] theorem setHost_host : (s.setHost h).host = h := rfl
@[simp] theorem setHost_sched : (s.setHost h).sched = s.sched := rfl
@[simp] theorem setHost_uopSlot : (s.setHost h).uopSlot = s.uopSlot := rfl

end

/-! ### popSched -/

section
variable (s : State)

@[simp] theorem popSched_st : (s.popSched).st = s.st := rfl
@[simp] theorem popSched_key : (s.popSched).key = s.key := rfl
@[simp] theorem popSched_w : (s.popSched).w = s.w := rfl
@[simp] theorem popSched_dir : (s.popSched).dir = s.dir := rfl
@[simp] theorem popSched_stg : (s.popSched).stg = s.stg := rfl
@[simp] theorem popSched_dout : (s.popSched).dout = s.dout := rfl
@[simp] theorem popSched_busy : (s.popSched).busy = s.busy := rfl
@[simp] theorem popSched_done : (s.popSched).done = s.done := rfl
@[simp] theorem popSched_err : (s.popSched).err = s.err := rfl
@[simp] theorem popSched_errcode : (s.popSched).errcode = s.errcode := rfl
@[simp] theorem popSched_din : (s.popSched).din = s.din := rfl
@[simp] theorem popSched_kin : (s.popSched).kin = s.kin := rfl
@[simp] theorem popSched_rst : (s.popSched).rst = s.rst := rfl
@[simp] theorem popSched_host : (s.popSched).host = s.host := rfl
@[simp] theorem popSched_sched : (s.popSched).sched = s.sched.tail := rfl
@[simp] theorem popSched_uopSlot : (s.popSched).uopSlot = s.uopSlot := rfl

end

/-! ### clearSlot -/

section
variable (s : State)

@[simp] theorem clearSlot_st : (s.clearSlot).st = s.st := rfl
@[simp] theorem clearSlot_key : (s.clearSlot).key = s.key := rfl
@[simp] theorem clearSlot_w : (s.clearSlot).w = s.w := rfl
@[simp] theorem clearSlot_dir : (s.clearSlot).dir = s.dir := rfl
@[simp] theorem clearSlot_stg : (s.clearSlot).stg = s.stg := rfl
@[simp] theorem clearSlot_dout : (s.clearSlot).dout = s.dout := rfl
@[simp] theorem clearSlot_busy : (s.clearSlot).busy = s.busy := rfl
@[simp] theorem clearSlot_done : (s.clearSlot).done = s.done := rfl
@[simp] theorem clearSlot_err : (s.clearSlot).err = s.err := rfl
@[simp] theorem clearSlot_errcode : (s.clearSlot).errcode = s.errcode := rfl
@[simp] theorem clearSlot_din : (s.clearSlot).din = s.din := rfl
@[simp] theorem clearSlot_kin : (s.clearSlot).kin = s.kin := rfl
@[simp] theorem clearSlot_rst : (s.clearSlot).rst = s.rst := rfl
@[simp] theorem clearSlot_host : (s.clearSlot).host = s.host := rfl
@[simp] theorem clearSlot_sched : (s.clearSlot).sched = s.sched := rfl
@[simp] theorem clearSlot_uopSlot : (s.clearSlot).uopSlot = none := rfl

end

/-! ### nextStage -/

section
variable (s : State)

@[simp] theorem nextStage_st : (s.nextStage).st = s.st := rfl
@[simp] theorem nextStage_key : (s.nextStage).key = s.key := rfl
@[simp] theorem nextStage_w : (s.nextStage).w = s.w := rfl
@[simp] theorem nextStage_dir : (s.nextStage).dir = s.dir := rfl
@[simp] theorem nextStage_stg : (s.nextStage).stg = s.stg + 1#3 := rfl
@[simp] theorem nextStage_dout : (s.nextStage).dout = s.dout := rfl
@[simp] theorem nextStage_busy : (s.nextStage).busy = s.busy := rfl
@[simp] theorem nextStage_done : (s.nextStage).done = s.done := rfl
@[simp] theorem nextStage_err : (s.nextStage).err = s.err := rfl
@[simp] theorem nextStage_errcode : (s.nextStage).errcode = s.errcode := rfl
@[simp] theorem nextStage_din : (s.nextStage).din = s.din := rfl
@[simp] theorem nextStage_kin : (s.nextStage).kin = s.kin := rfl
@[simp] theorem nextStage_rst : (s.nextStage).rst = s.rst := rfl
@[simp] theorem nextStage_host : (s.nextStage).host = s.host := rfl
@[simp] theorem nextStage_sched : (s.nextStage).sched = s.sched := rfl
@[simp] theorem nextStage_uopSlot : (s.nextStage).uopSlot = s.uopSlot := rfl

end

/-! ### flagsAccept -/

section
variable (s : State)

@[simp] theorem flagsAccept_st : (s.flagsAccept).st = s.st := rfl
@[simp] theorem flagsAccept_key : (s.flagsAccept).key = s.key := rfl
@[simp] theorem flagsAccept_w : (s.flagsAccept).w = s.w := rfl
@[simp] theorem flagsAccept_dir : (s.flagsAccept).dir = s.dir := rfl
@[simp] theorem flagsAccept_stg : (s.flagsAccept).stg = s.stg := rfl
@[simp] theorem flagsAccept_dout : (s.flagsAccept).dout = s.dout := rfl
@[simp] theorem flagsAccept_busy : (s.flagsAccept).busy = true := rfl
@[simp] theorem flagsAccept_done : (s.flagsAccept).done = false := rfl
@[simp] theorem flagsAccept_err : (s.flagsAccept).err = false := rfl
@[simp] theorem flagsAccept_errcode : (s.flagsAccept).errcode = 0#2 := rfl
@[simp] theorem flagsAccept_din : (s.flagsAccept).din = s.din := rfl
@[simp] theorem flagsAccept_kin : (s.flagsAccept).kin = s.kin := rfl
@[simp] theorem flagsAccept_rst : (s.flagsAccept).rst = s.rst := rfl
@[simp] theorem flagsAccept_host : (s.flagsAccept).host = s.host := rfl
@[simp] theorem flagsAccept_sched : (s.flagsAccept).sched = s.sched := rfl
@[simp] theorem flagsAccept_uopSlot : (s.flagsAccept).uopSlot = s.uopSlot := rfl

end

/-! ### flagsReject -/

section
variable (s : State) (c : BitVec 2)

@[simp] theorem flagsReject_st : (s.flagsReject c).st = s.st := rfl
@[simp] theorem flagsReject_key : (s.flagsReject c).key = s.key := rfl
@[simp] theorem flagsReject_w : (s.flagsReject c).w = s.w := rfl
@[simp] theorem flagsReject_dir : (s.flagsReject c).dir = s.dir := rfl
@[simp] theorem flagsReject_stg : (s.flagsReject c).stg = s.stg := rfl
@[simp] theorem flagsReject_dout : (s.flagsReject c).dout = s.dout := rfl
@[simp] theorem flagsReject_busy : (s.flagsReject c).busy = s.busy := rfl
@[simp] theorem flagsReject_done : (s.flagsReject c).done = s.done := rfl
@[simp] theorem flagsReject_err : (s.flagsReject c).err = true := rfl
@[simp] theorem flagsReject_errcode : (s.flagsReject c).errcode = c := rfl
@[simp] theorem flagsReject_din : (s.flagsReject c).din = s.din := rfl
@[simp] theorem flagsReject_kin : (s.flagsReject c).kin = s.kin := rfl
@[simp] theorem flagsReject_rst : (s.flagsReject c).rst = s.rst := rfl
@[simp] theorem flagsReject_host : (s.flagsReject c).host = s.host := rfl
@[simp] theorem flagsReject_sched : (s.flagsReject c).sched = s.sched := rfl
@[simp] theorem flagsReject_uopSlot : (s.flagsReject c).uopSlot = s.uopSlot := rfl

end

/-! ### reject -/

section
variable (s : State) (c : BitVec 2)

@[simp] theorem reject_st : (s.reject c).st = s.st := rfl
@[simp] theorem reject_key : (s.reject c).key = s.key := rfl
@[simp] theorem reject_w : (s.reject c).w = s.w := rfl
@[simp] theorem reject_dir : (s.reject c).dir = s.dir := rfl
@[simp] theorem reject_stg : (s.reject c).stg = s.stg := rfl
@[simp] theorem reject_dout : (s.reject c).dout = s.dout := rfl
@[simp] theorem reject_busy : (s.reject c).busy = s.busy := rfl
@[simp] theorem reject_done : (s.reject c).done = s.done := rfl
@[simp] theorem reject_err : (s.reject c).err = true := rfl
@[simp] theorem reject_errcode : (s.reject c).errcode = c := rfl
@[simp] theorem reject_din : (s.reject c).din = s.din := rfl
@[simp] theorem reject_kin : (s.reject c).kin = s.kin := rfl
@[simp] theorem reject_rst : (s.reject c).rst = s.rst := rfl
@[simp] theorem reject_host : (s.reject c).host = s.host := rfl
@[simp] theorem reject_sched : (s.reject c).sched = s.sched := rfl
@[simp] theorem reject_uopSlot : (s.reject c).uopSlot = s.uopSlot := rfl

end

/-! ### flagsFinish -/

section
variable (s : State)

@[simp] theorem flagsFinish_st : (s.flagsFinish).st = s.st := rfl
@[simp] theorem flagsFinish_key : (s.flagsFinish).key = s.key := rfl
@[simp] theorem flagsFinish_w : (s.flagsFinish).w = s.w := rfl
@[simp] theorem flagsFinish_dir : (s.flagsFinish).dir = s.dir := rfl
@[simp] theorem flagsFinish_stg : (s.flagsFinish).stg = s.stg := rfl
@[simp] theorem flagsFinish_dout : (s.flagsFinish).dout = s.dout := rfl
@[simp] theorem flagsFinish_busy : (s.flagsFinish).busy = false := rfl
@[simp] theorem flagsFinish_done : (s.flagsFinish).done = true := rfl
@[simp] theorem flagsFinish_err : (s.flagsFinish).err = s.err := rfl
@[simp] theorem flagsFinish_errcode : (s.flagsFinish).errcode = s.errcode := rfl
@[simp] theorem flagsFinish_din : (s.flagsFinish).din = s.din := rfl
@[simp] theorem flagsFinish_kin : (s.flagsFinish).kin = s.kin := rfl
@[simp] theorem flagsFinish_rst : (s.flagsFinish).rst = s.rst := rfl
@[simp] theorem flagsFinish_host : (s.flagsFinish).host = s.host := rfl
@[simp] theorem flagsFinish_sched : (s.flagsFinish).sched = s.sched := rfl
@[simp] theorem flagsFinish_uopSlot : (s.flagsFinish).uopSlot = s.uopSlot := rfl

end

/-! ### start -/

section
variable (s : State) (d : BitVec 1)

@[simp] theorem start_st : (s.start d).st = s.st := rfl
@[simp] theorem start_key : (s.start d).key = s.key := rfl
@[simp] theorem start_w : (s.start d).w = s.w := rfl
@[simp] theorem start_dir : (s.start d).dir = d := rfl
@[simp] theorem start_stg : (s.start d).stg = 0#3 := rfl
@[simp] theorem start_dout : (s.start d).dout = s.dout := rfl
@[simp] theorem start_busy : (s.start d).busy = true := rfl
@[simp] theorem start_done : (s.start d).done = false := rfl
@[simp] theorem start_err : (s.start d).err = false := rfl
@[simp] theorem start_errcode : (s.start d).errcode = 0#2 := rfl
@[simp] theorem start_din : (s.start d).din = s.din := rfl
@[simp] theorem start_kin : (s.start d).kin = s.kin := rfl
@[simp] theorem start_rst : (s.start d).rst = s.rst := rfl
@[simp] theorem start_host : (s.start d).host = s.host := rfl
@[simp] theorem start_sched : (s.start d).sched = s.sched := rfl
@[simp] theorem start_uopSlot : (s.start d).uopSlot = s.uopSlot := rfl

end

/-! ### finish -/

section
variable (s : State)

@[simp] theorem finish_st : (s.finish).st = s.st := rfl
@[simp] theorem finish_key : (s.finish).key = s.key := rfl
@[simp] theorem finish_w : (s.finish).w = s.w := rfl
@[simp] theorem finish_dir : (s.finish).dir = s.dir := rfl
@[simp] theorem finish_stg : (s.finish).stg = 0#3 := rfl
@[simp] theorem finish_dout : (s.finish).dout = s.st.map pack := rfl
@[simp] theorem finish_busy : (s.finish).busy = false := rfl
@[simp] theorem finish_done : (s.finish).done = true := rfl
@[simp] theorem finish_err : (s.finish).err = s.err := rfl
@[simp] theorem finish_errcode : (s.finish).errcode = s.errcode := rfl
@[simp] theorem finish_din : (s.finish).din = s.din := rfl
@[simp] theorem finish_kin : (s.finish).kin = s.kin := rfl
@[simp] theorem finish_rst : (s.finish).rst = s.rst := rfl
@[simp] theorem finish_host : (s.finish).host = s.host := rfl
@[simp] theorem finish_sched : (s.finish).sched = s.sched := rfl
@[simp] theorem finish_uopSlot : (s.finish).uopSlot = s.uopSlot := rfl

end

/-! ### latchInputs -/

section
variable (s : State)

@[simp] theorem latchInputs_st : (s.latchInputs).st = Reg.holding (unpack s.din) := rfl
@[simp] theorem latchInputs_key : (s.latchInputs).key = Reg.holding (unpack s.kin) := rfl
@[simp] theorem latchInputs_dir : (s.latchInputs).dir = s.dir := rfl
@[simp] theorem latchInputs_stg : (s.latchInputs).stg = s.stg := rfl
@[simp] theorem latchInputs_dout : (s.latchInputs).dout = s.dout := rfl
@[simp] theorem latchInputs_busy : (s.latchInputs).busy = s.busy := rfl
@[simp] theorem latchInputs_done : (s.latchInputs).done = s.done := rfl
@[simp] theorem latchInputs_err : (s.latchInputs).err = s.err := rfl
@[simp] theorem latchInputs_errcode : (s.latchInputs).errcode = s.errcode := rfl
@[simp] theorem latchInputs_din : (s.latchInputs).din = s.din := rfl
@[simp] theorem latchInputs_kin : (s.latchInputs).kin = s.kin := rfl
@[simp] theorem latchInputs_rst : (s.latchInputs).rst = s.rst := rfl
@[simp] theorem latchInputs_host : (s.latchInputs).host = s.host := rfl
@[simp] theorem latchInputs_sched : (s.latchInputs).sched = s.sched := rfl
@[simp] theorem latchInputs_uopSlot : (s.latchInputs).uopSlot = s.uopSlot := rfl

end

/-! ### transform -/

section
variable (s : State) (f : Block → Block)

@[simp] theorem transform_st : (s.transform f).st = s.st.map f := rfl
@[simp] theorem transform_key : (s.transform f).key = s.key := rfl
@[simp] theorem transform_w : (s.transform f).w = s.w := rfl
@[simp] theorem transform_dir : (s.transform f).dir = s.dir := rfl
@[simp] theorem transform_stg : (s.transform f).stg = s.stg := rfl
@[simp] theorem transform_dout : (s.transform f).dout = s.dout := rfl
@[simp] theorem transform_busy : (s.transform f).busy = s.busy := rfl
@[simp] theorem transform_done : (s.transform f).done = s.done := rfl
@[simp] theorem transform_err : (s.transform f).err = s.err := rfl
@[simp] theorem transform_errcode : (s.transform f).errcode = s.errcode := rfl
@[simp] theorem transform_din : (s.transform f).din = s.din := rfl
@[simp] theorem transform_kin : (s.transform f).kin = s.kin := rfl
@[simp] theorem transform_rst : (s.transform f).rst = s.rst := rfl
@[simp] theorem transform_host : (s.transform f).host = s.host := rfl
@[simp] theorem transform_sched : (s.transform f).sched = s.sched := rfl
@[simp] theorem transform_uopSlot : (s.transform f).uopSlot = s.uopSlot := rfl

end

/-! ### addKey -/

section
variable (s : State) (i : Nat)

@[simp] theorem addKey_st : (s.addKey i).st = (s.roundKey i).map₂ addRoundKey s.st := rfl
@[simp] theorem addKey_key : (s.addKey i).key = s.key := rfl
@[simp] theorem addKey_w : (s.addKey i).w = s.w := rfl
@[simp] theorem addKey_dir : (s.addKey i).dir = s.dir := rfl
@[simp] theorem addKey_stg : (s.addKey i).stg = s.stg := rfl
@[simp] theorem addKey_dout : (s.addKey i).dout = s.dout := rfl
@[simp] theorem addKey_busy : (s.addKey i).busy = s.busy := rfl
@[simp] theorem addKey_done : (s.addKey i).done = s.done := rfl
@[simp] theorem addKey_err : (s.addKey i).err = s.err := rfl
@[simp] theorem addKey_errcode : (s.addKey i).errcode = s.errcode := rfl
@[simp] theorem addKey_din : (s.addKey i).din = s.din := rfl
@[simp] theorem addKey_kin : (s.addKey i).kin = s.kin := rfl
@[simp] theorem addKey_rst : (s.addKey i).rst = s.rst := rfl
@[simp] theorem addKey_host : (s.addKey i).host = s.host := rfl
@[simp] theorem addKey_sched : (s.addKey i).sched = s.sched := rfl
@[simp] theorem addKey_uopSlot : (s.addKey i).uopSlot = s.uopSlot := rfl

end

/-! ### computeWord -/

section
variable (s : State) (P : Params) (i : Nat)

@[simp] theorem computeWord_st : (s.computeWord P i).st = s.st := rfl
@[simp] theorem computeWord_key : (s.computeWord P i).key = s.key := rfl
@[simp] theorem computeWord_w : (s.computeWord P i).w = s.w.setIfInBounds i ((s.word (i - 2)).map₂ (keyStep P i) (s.word (i - 1))) := rfl
@[simp] theorem computeWord_dir : (s.computeWord P i).dir = s.dir := rfl
@[simp] theorem computeWord_stg : (s.computeWord P i).stg = s.stg := rfl
@[simp] theorem computeWord_dout : (s.computeWord P i).dout = s.dout := rfl
@[simp] theorem computeWord_busy : (s.computeWord P i).busy = s.busy := rfl
@[simp] theorem computeWord_done : (s.computeWord P i).done = s.done := rfl
@[simp] theorem computeWord_err : (s.computeWord P i).err = s.err := rfl
@[simp] theorem computeWord_errcode : (s.computeWord P i).errcode = s.errcode := rfl
@[simp] theorem computeWord_din : (s.computeWord P i).din = s.din := rfl
@[simp] theorem computeWord_kin : (s.computeWord P i).kin = s.kin := rfl
@[simp] theorem computeWord_rst : (s.computeWord P i).rst = s.rst := rfl
@[simp] theorem computeWord_host : (s.computeWord P i).host = s.host := rfl
@[simp] theorem computeWord_sched : (s.computeWord P i).sched = s.sched := rfl
@[simp] theorem computeWord_uopSlot : (s.computeWord P i).uopSlot = s.uopSlot := rfl

end

/-! ### resetEngine -/

section
variable (s : State)

@[simp] theorem resetEngine_st : (s.resetEngine).st = State.reset.st := rfl
@[simp] theorem resetEngine_key : (s.resetEngine).key = State.reset.key := rfl
@[simp] theorem resetEngine_w : (s.resetEngine).w = State.reset.w := rfl
@[simp] theorem resetEngine_dir : (s.resetEngine).dir = State.reset.dir := rfl
@[simp] theorem resetEngine_stg : (s.resetEngine).stg = State.reset.stg := rfl
@[simp] theorem resetEngine_dout : (s.resetEngine).dout = State.reset.dout := rfl
@[simp] theorem resetEngine_busy : (s.resetEngine).busy = State.reset.busy := rfl
@[simp] theorem resetEngine_done : (s.resetEngine).done = State.reset.done := rfl
@[simp] theorem resetEngine_err : (s.resetEngine).err = State.reset.err := rfl
@[simp] theorem resetEngine_errcode : (s.resetEngine).errcode = State.reset.errcode := rfl
@[simp] theorem resetEngine_din : (s.resetEngine).din = s.din := rfl
@[simp] theorem resetEngine_kin : (s.resetEngine).kin = s.kin := rfl
@[simp] theorem resetEngine_rst : (s.resetEngine).rst = s.rst := rfl
@[simp] theorem resetEngine_host : (s.resetEngine).host = s.host := rfl
@[simp] theorem resetEngine_sched : (s.resetEngine).sched = s.sched := rfl
@[simp] theorem resetEngine_uopSlot : (s.resetEngine).uopSlot = s.uopSlot := rfl

end

/-! ### advanceHost -/

section
variable (s : State)

@[simp] theorem advanceHost_st : (advanceHost s).st = s.st := rfl
@[simp] theorem advanceHost_key : (advanceHost s).key = s.key := rfl
@[simp] theorem advanceHost_w : (advanceHost s).w = s.w := rfl
@[simp] theorem advanceHost_dir : (advanceHost s).dir = s.dir := rfl
@[simp] theorem advanceHost_stg : (advanceHost s).stg = s.stg := rfl
@[simp] theorem advanceHost_dout : (advanceHost s).dout = s.dout := rfl
@[simp] theorem advanceHost_busy : (advanceHost s).busy = s.busy := rfl
@[simp] theorem advanceHost_done : (advanceHost s).done = s.done := rfl
@[simp] theorem advanceHost_err : (advanceHost s).err = s.err := rfl
@[simp] theorem advanceHost_errcode : (advanceHost s).errcode = s.errcode := rfl
@[simp] theorem advanceHost_din : (advanceHost s).din = s.din := rfl
@[simp] theorem advanceHost_kin : (advanceHost s).kin = s.kin := rfl
@[simp] theorem advanceHost_rst : (advanceHost s).rst = s.rst := rfl
@[simp] theorem advanceHost_host : (advanceHost s).host = { s.host with pc := s.host.pc + 1 } := rfl
@[simp] theorem advanceHost_sched : (advanceHost s).sched = s.sched := rfl
@[simp] theorem advanceHost_uopSlot : (advanceHost s).uopSlot = s.uopSlot := rfl

end

end Sys2Proof.Machine.Laws
end

