-- ==== Sys2Proof/Laws/Ops.lean ====
section
/-!
SUPPORT. What the shared operations do: registers that can hold ⊥, the word file by index, the key expansion, acceptance, and the
next word an instruction can answer with. Later proofs cite these and do not unfold the operations.
-/

namespace Sys2Proof.Machine.Laws

/-! ### Registers that can hold ⊥ -/

@[simp] theorem map_holding {α β : Type} (f : α → β) (v : α) : (Reg.holding v).map f = Reg.holding (f v) := rfl

@[simp] theorem map₂_holding {α β γ : Type} (f : α → β → γ) (a : α) (b : β) :
    (Reg.holding a).map₂ f (Reg.holding b) = Reg.holding (f a b) := rfl

@[simp] theorem map_written {α β : Type} (f : α → β) (r : Reg α) : (r.map f).written = r.written := rfl

@[simp] theorem map₂_written {α β γ : Type} (f : α → β → γ) (a : Reg α) (b : Reg β) :
    (a.map₂ f b).written = (a.written && b.written) := rfl

@[simp] theorem holding_written {α : Type} (v : α) : (Reg.holding v).written = true := rfl

@[simp] theorem holding_val {α : Type} (v : α) : (Reg.holding v).val = v := rfl

theorem map_map {α β γ : Type} (g : β → γ) (f : α → β) (r : Reg α) : (r.map f).map g = r.map (g ∘ f) := rfl

theorem map_id_of_inverse {α : Type} {f g : α → α} (h : ∀ v, g (f v) = v) (r : Reg α) : (r.map f).map g = r := by
  cases r
  simp [Reg.map, h]

/-! ### The word file -/

theorem word_eq_getElem (s : State) {i : Nat} (h : i < 10) : s.word i = s.w[i] := by
  simp [State.word, h]

theorem word_congr {s t : State} (h : t.w = s.w) (i : Nat) : t.word i = s.word i := by
  simp [State.word, h]

theorem roundKey_congr {s t : State} (h : t.w = s.w) (i : Nat) : t.roundKey i = s.roundKey i := by
  simp [State.roundKey, word_congr h]

theorem setWord_word (s : State) (i j : Nat) (r : Reg Column) (h : i < 10) :
    (s.setWord i r).word j = if j = i then r else s.word j := by
  unfold State.word State.setWord
  by_cases hj : j < 10
  · simp [hj, Vector.getElem_setIfInBounds, eq_comm]
  · have hne : j ≠ i := by omega
    simp [hj, hne]

theorem computeWord_word (P : Params) (s : State) (i j : Nat) (h : i < 10) :
    (s.computeWord P i).word j =
      if j = i then (s.word (i - 2)).map₂ (keyStep P i) (s.word (i - 1)) else s.word j := by
  unfold State.computeWord
  exact setWord_word s i j _ h

@[simp] theorem latchInputs_word_zero (s : State) :
    s.latchInputs.word 0 = Reg.holding (unpack s.kin).c0 := by
  simp [State.word, State.latchInputs]

@[simp] theorem latchInputs_word_one (s : State) :
    s.latchInputs.word 1 = Reg.holding (unpack s.kin).c1 := by
  simp [State.word, State.latchInputs]

/-! ### The key expansion -/

/-- Computing words changes nothing but the word file. -/
theorem foldl_computeWord_frame (P : Params) (f : BitVec 8 → Nat) (ws : List (BitVec 8)) (s : State) :
    ws.foldl (fun t u => t.computeWord P (f u)) s =
      { s with w := (ws.foldl (fun t u => t.computeWord P (f u)) s).w } := by
  induction ws generalizing s with
  | nil => rfl
  | cons u ws ih =>
    rw [List.foldl_cons, ih (s.computeWord P (f u))]
    rfl

theorem expandKey_frame (P : Params) (s : State) : s.expandKey P = { s with w := (s.expandKey P).w } :=
  foldl_computeWord_frame P (fun u => (uopIdx u).toNat) kxWords s

/-- The key-expansion sequence of the ROM is KW w2 to KW w9. -/
theorem expandKey_eq (P : Params) (s : State) :
    s.expandKey P = [2, 3, 4, 5, 6, 7, 8, 9].foldl (fun t i => t.computeWord P i) s := by
  have h : kxWords.map (fun u => (uopIdx u).toNat) = [2, 3, 4, 5, 6, 7, 8, 9] := by decide
  rw [← h, List.foldl_map]
  rfl

/-- Acceptance's key expansion: the ten words of the recursion, from any word file whose first two words are latched. -/
theorem expandKey_word (P : Params) (s : State) (key : Block) (h0 : s.word 0 = Reg.holding key.c0)
    (h1 : s.word 1 = Reg.holding key.c1) {i : Nat} (hi : i < 10) :
    (s.expandKey P).word i = Reg.holding (keyWord P key i) := by
  rw [expandKey_eq]
  simp only [List.foldl_cons, List.foldl_nil]
  have k2 : ∀ n, keyWord P key (n + 2) = keyStep P (n + 2) (keyWord P key n) (keyWord P key (n + 1)) := fun _ => rfl
  have e0 : keyWord P key 0 = key.c0 := rfl
  have e1 : keyWord P key 1 = key.c1 := rfl
  interval_cases i <;> simp [computeWord_word, h0, h1, k2, e0, e1]

/-! ### Acceptance -/

theorem accept_frame (P : Params) (d : BitVec 1) (s : State) :
    s.accept P d = { s with st := Reg.holding (unpack s.din), key := Reg.holding (unpack s.kin), w := (s.accept P d).w,
                            dir := d, stg := 0#3, busy := true, done := false, err := false, errcode := 0#2 } := by
  conv_lhs => rw [State.accept, expandKey_frame P s.latchInputs]
  rfl

theorem accept_word (P : Params) (d : BitVec 1) (s : State) {i : Nat} (hi : i < 10) :
    (s.accept P d).word i = Reg.holding (keyWord P (unpack s.kin) i) := by
  have h : (s.accept P d).word i = (s.latchInputs.expandKey P).word i := word_congr (start_w _ d) i
  rw [h]
  exact expandKey_word P s.latchInputs (unpack s.kin) (latchInputs_word_zero s) (latchInputs_word_one s) hi

section
variable (P : Params) (d : BitVec 1) (s : State)

@[simp] theorem accept_st : (s.accept P d).st = Reg.holding (unpack s.din) := by rw [accept_frame]
@[simp] theorem accept_key : (s.accept P d).key = Reg.holding (unpack s.kin) := by rw [accept_frame]
@[simp] theorem accept_dir : (s.accept P d).dir = d := by rw [accept_frame]
@[simp] theorem accept_stg : (s.accept P d).stg = 0#3 := by rw [accept_frame]
@[simp] theorem accept_dout : (s.accept P d).dout = s.dout := by rw [accept_frame]
@[simp] theorem accept_busy : (s.accept P d).busy = true := by rw [accept_frame]
@[simp] theorem accept_done : (s.accept P d).done = false := by rw [accept_frame]
@[simp] theorem accept_err : (s.accept P d).err = false := by rw [accept_frame]
@[simp] theorem accept_errcode : (s.accept P d).errcode = 0#2 := by rw [accept_frame]
@[simp] theorem accept_din : (s.accept P d).din = s.din := by rw [accept_frame]
@[simp] theorem accept_kin : (s.accept P d).kin = s.kin := by rw [accept_frame]
@[simp] theorem accept_rst : (s.accept P d).rst = s.rst := by rw [accept_frame]
@[simp] theorem accept_host : (s.accept P d).host = s.host := by rw [accept_frame]
@[simp] theorem accept_sched : (s.accept P d).sched = s.sched := by rw [accept_frame]
@[simp] theorem accept_uopSlot : (s.accept P d).uopSlot = s.uopSlot := by rw [accept_frame]

end

/-! ### What the meanings share -/

/-- The two answers of a command that starts an operation. -/
theorem startCommand_cases (d : BitVec 1) (s : State) :
    (s.busy = true ∧ startCommand d s = .next (s.reject eBusy)) ∨
    (s.busy = false ∧ startCommand d s = .next (s.accept Config.params d)) := by
  cases h : s.busy <;> simp [startCommand, h]

theorem rsvdCmd_cases (s : State) :
    (s.busy = true ∧ execRsvdCmd s = .next (s.reject eBusy)) ∨
    (s.busy = false ∧ execRsvdCmd s = .next (s.reject eRsvdCmd)) := by
  cases h : s.busy <;> simp [execRsvdCmd, h]

/-- RESET leaves the registers at R41 and the rest as it was. -/
theorem resetEngine_atReset (s : State) : RegistersAtReset s.resetEngine := by
  refine ⟨rfl, rfl, rfl, rfl, rfl, rfl, rfl, rfl, rfl, ?_⟩
  intro i hi
  interval_cases i <;> rfl

end Sys2Proof.Machine.Laws
end

