-- ==== Sys2Proof/Laws/PerInstr.lean ====
section
/-!
SUPPORT. The family TableWords: the encoding of each instruction against its row of spec/opcode_table.json.
-/

namespace Sys2Proof.Laws.TableWords

/-- The row's format, mask, match value and legal words, as spec/opcode_table.json has them: (bits, mask, match, words). -/
def row : Instr → Nat × Nat × Nat × List Nat
  | .nop => (2, 0b11, 0b00, [0])
  | .enc => (2, 0b11, 0b01, [1])
  | .dec => (2, 0b11, 0b10, [2])
  | .rsvdCmd => (2, 0b11, 0b11, [3])
  | .ark _ => (8, 0xF0, 0x00, [0x00, 0x01, 0x02, 0x03, 0x04])
  | .sub => (8, 0xFF, 0x10, [0x10])
  | .isub => (8, 0xFF, 0x20, [0x20])
  | .shr => (8, 0xFF, 0x30, [0x30])
  | .mix => (8, 0xFF, 0x40, [0x40])
  | .imix => (8, 0xFF, 0x50, [0x50])
  | .kw _ => (8, 0xF0, 0x60, [0x62, 0x63, 0x64, 0x65, 0x66, 0x67, 0x68, 0x69])
  | .fin => (8, 0xFF, 0x70, [0x70])

/-- A word's width and value. -/
def valueOf : RawWord → Nat × Nat
  | .cmd c => (2, c.toNat)
  | .uop w => (8, w.toNat)

/-- The encoding has the row's width and fixed bits, and the instruction is well-formed exactly if its word is legal. -/
def Statement (i : Instr) : Prop :=
  (valueOf (encode i)).1 = (row i).1 ∧ (valueOf (encode i)).2 &&& (row i).2.1 = (row i).2.2.1 ∧
  (i.wf = true ↔ (valueOf (encode i)).2 ∈ (row i).2.2.2)

theorem nop : Statement .nop := by unfold Statement; decide
theorem enc : Statement .enc := by unfold Statement; decide
theorem dec : Statement .dec := by unfold Statement; decide
theorem rsvdCmd : Statement .rsvdCmd := by unfold Statement; decide
theorem ark (idx : BitVec 4) : Statement (.ark idx) := by unfold Statement; revert idx; decide
theorem sub : Statement .sub := by unfold Statement; decide
theorem isub : Statement .isub := by unfold Statement; decide
theorem shr : Statement .shr := by unfold Statement; decide
theorem mix : Statement .mix := by unfold Statement; decide
theorem imix : Statement .imix := by unfold Statement; decide
theorem kw (idx : BitVec 4) : Statement (.kw idx) := by unfold Statement; revert idx; decide
theorem fin : Statement .fin := by unfold Statement; decide

end Sys2Proof.Laws.TableWords
end

