-- ==== Sys2Proof/Laws/Step.lean ====
section
/-!
SUPPORT. What a step can do, said once: the words of a stage run as the instructions they stand for, a stage step by its cases, and
every step by the move it makes.
-/

namespace Sys2Proof.Machine.Laws

@[simp] theorem runWords_nil (s : State) : runWords [] s = .next s := rfl

theorem runWords_cons_next {w : BitVec 8} {ws : List (BitVec 8)} {s t : State} (h : runWord w s = .next t) :
    runWords (w :: ws) s = runWords ws t := by
  simp [runWords, h]

@[simp] theorem execAll_nil (s : State) : execAll [] s = .next s := rfl

theorem execAll_cons_next {i : Instr} {is : List Instr} {s t : State} (h : exec i s = .next t) :
    execAll (i :: is) s = execAll is t := by
  simp [execAll, h]

theorem runWord_of_decode {w : BitVec 8} {i : Instr} (h : decodeUop w = .ok i) (s : State) : runWord w s = exec i s := by
  simp [runWord, h]

/-- Words that decode to instructions run as those instructions. -/
theorem runWords_eq_execAll {ws : List (BitVec 8)} {is : List Instr} (h : ws.map decodeUop = is.map .ok) (s : State) :
    runWords ws s = execAll is s := by
  induction ws generalizing is s with
  | nil =>
    cases is with
    | nil => rfl
    | cons i is => simp at h
  | cons w ws ih =>
    cases is with
    | nil => simp at h
    | cons i is =>
      rw [List.map_cons, List.map_cons, List.cons.injEq] at h
      simp only [runWords, execAll, runWord_of_decode h.1]
      cases exec i s with
      | next t => exact ih h.2 t
      | fault f => rfl
      | refused r => rfl

/-- The control ROM holds the micro-ops of R153's mnemonic column, and FIN ends exactly stage 4. -/
theorem stageWords_decode (d : BitVec 1) (g : BitVec 3) (h : g.toNat ≤ 4) :
    ∃ ws, stageWords d g = some ws ∧ ws.map decodeUop = (stageInstrs d g.toNat).map .ok ∧
      endsInFin ws = decide (g = 4#3) := by
  revert h
  revert d g
  decide

theorem stageStep_idle {s : State} (h : s.busy = false) : stageStep s = .next s := by
  simp [stageStep, h]

theorem stageStep_held {s : State} (h : s.rst = true) : stageStep s = .next s := by
  simp [stageStep, h]

/-- An enabled stage step is the stage's micro-ops, then the count of the stage unless FIN ended it. -/
theorem stageStep_busy {s : State} (hb : s.busy = true) (hr : s.rst = false) (hg : s.stg.toNat ≤ 4) :
    stageStep s =
      match execAll (stageInstrs s.dir s.stg.toNat) s with
      | .next t => if s.stg = 4#3 then .next t else .next t.nextStage
      | .fault f => .fault f
      | .refused r => .refused r := by
  obtain ⟨ws, hw, hd, hf⟩ := stageWords_decode s.dir s.stg hg
  cases he : execAll (stageInstrs s.dir s.stg.toNat) s <;>
    simp [stageStep, hb, hr, hw, runStage, runWords_eq_execAll hd, hf, he]

/-- Every step is one of four: the slot's word, a sequencer's turn, a host action, or a host's turn with no line left. -/
theorem step_cases (s : State) :
    (∃ w, s.uopSlot = some w ∧ step s = slotStep w s) ∨
    (SequencerMoves s ∧ step s = stageStep s.popSched) ∨
    (∃ a, HostDoes a s ∧ step s = hostAct a (advanceHost s.popSched)) ∨
    (s.uopSlot = none ∧ nextAgent s = .host ∧ nextLine s = none ∧ step s = .next s.popSched) := by
  cases hu : s.uopSlot with
  | some w => exact .inl ⟨w, rfl, by simp [step, hu]⟩
  | none =>
    cases ha : nextAgent s with
    | sequencer => exact .inr (.inl ⟨⟨hu, ha⟩, by simp [step, hu, ha]⟩)
    | host =>
      cases hl : nextLine s with
      | none =>
        have hp : s.popSched.host.prog[s.popSched.host.pc]? = none := hl
        exact .inr (.inr (.inr ⟨rfl, rfl, rfl, by simp only [step, hu, ha, hostStep, hp]⟩))
      | some a =>
        have hp : s.popSched.host.prog[s.popSched.host.pc]? = some a := hl
        exact .inr (.inr (.inl ⟨a, ⟨hu, ha, hl⟩, by simp only [step, hu, ha, hostStep, hp]⟩))

theorem step_of_hostDoes {a : HostAction} {s : State} (h : HostDoes a s) :
    step s = hostAct a (advanceHost s.popSched) := by
  obtain ⟨hu, ha, hl⟩ := h
  have hp : s.popSched.host.prog[s.popSched.host.pc]? = some a := hl
  simp only [step, hu, ha, hostStep, hp]

theorem step_of_sequencerMoves {s : State} (h : SequencerMoves s) : step s = stageStep s.popSched := by
  obtain ⟨hu, ha⟩ := h
  simp [step, hu, ha]

/-! ### The micro-ops of a stage, and what a host action answers -/

theorem exec_ark_of_le {idx : BitVec 4} (h : idx.toNat ≤ 4) (s : State) : exec (.ark idx) s = .next (s.addKey idx.toNat) := by
  simp [exec, execArk, arkIndexOk, h]

theorem exec_kw_of_mem {idx : BitVec 4} (h2 : 2 ≤ idx.toNat) (h9 : idx.toNat ≤ 9) (s : State) :
    exec (.kw idx) s = .next (s.computeWord Config.params idx.toNat) := by
  simp [exec, execKw, kwIndexOk, h2, h9]

/-- ST after the micro-ops of stage `n` in the direction `d`, before FIN. -/
def stageBlock (s : State) (d : BitVec 1) (n : Nat) : Reg Block :=
  let P := Config.params
  let add (i : Nat) (r : Reg Block) : Reg Block := (s.roundKey i).map₂ addRoundKey r
  if d = 0#1 then
    if n = 0 then add 0 s.st
    else if n = 4 then add 4 ((s.st.map (subBytes P)).map shiftRows)
    else add n (((s.st.map (subBytes P)).map shiftRows).map (mixColumns P))
  else
    if n = 0 then (((add 4 s.st).map shiftRows).map (subBytesInverse P))
    else if n = 4 then add 0 s.st
    else ((((add (4 - n) s.st).map (mixColumnsInverse P)).map shiftRows).map (subBytesInverse P))

/-- The micro-ops of a stage write ST alone, and then FIN's registers in stage 4. -/
theorem execAll_stage (s : State) (d : BitVec 1) {n : Nat} (hn : n ≤ 4) :
    execAll (stageInstrs d n) s =
      .next (if n = 4 then (s.setSt (stageBlock s d n)).finish else s.setSt (stageBlock s d n)) := by
  interval_cases n <;> by_cases hd : d = 0#1 <;> simp only [stageInstrs, stageBlock, hd, if_true, if_false] <;> rfl

/-- With ST and the words written, ST stays written. -/
theorem stageBlock_written {s : State} (hs : s.st.written = true) (hw : ∀ i, i < 10 → (s.word i).written = true)
    (d : BitVec 1) {n : Nat} (hn : n ≤ 4) : (stageBlock s d n).written = true := by
  have hk : ∀ i, i ≤ 4 → (s.roundKey i).written = true := by
    intro i hi
    simp [State.roundKey, hw (2 * i) (by omega), hw (2 * i + 1) (by omega)]
  have hk4 := hk 4 (by omega)
  have hk0 := hk 0 (by omega)
  have hkn := hk n hn
  have hkm := hk (4 - n) (by omega)
  unfold stageBlock
  split <;> split <;> (try split) <;> simp [hs, hk4, hk0, hkn, hkm]

/-- With the words of a key in the word file, a stage is the schedule's stage function. -/
theorem stageBlock_eq {s : State} {key b : Block} (hs : s.st = Reg.holding b)
    (hw : ∀ i, i < 10 → s.word i = Reg.holding (keyWord Config.params key i))
    (d : BitVec 1) {n : Nat} (hn : n ≤ 4) :
    stageBlock s d n =
      Reg.holding (if d = 0#1 then encStage Config.params key n b else decStage Config.params key n b) := by
  have hk : ∀ i, i ≤ 4 → s.roundKey i = Reg.holding (roundKeyOf Config.params key i) := by
    intro i hi
    simp [State.roundKey, hw (2 * i) (by omega), hw (2 * i + 1) (by omega), roundKeyOf]
  have hk4 := hk 4 (by omega)
  have hk0 := hk 0 (by omega)
  have hkn := hk n hn
  have hkm := hk (4 - n) (by omega)
  unfold stageBlock
  by_cases hd : d = 0#1
  · simp only [hd, if_true, hs, hk4, hk0, hkn, encStage]
    split
    · rfl
    · split <;> rfl
  · simp only [hd, if_false, hs, hk4, hk0, hkm, decStage]
    split
    · rfl
    · split <;> rfl

/-- An enabled stage step, all of it. -/
theorem stageStep_next {s : State} (hb : s.busy = true) (hr : s.rst = false) (hg : s.stg.toNat ≤ 4) :
    stageStep s = .next
      (if s.stg = 4#3 then (s.setSt (stageBlock s s.dir 4)).finish
       else (s.setSt (stageBlock s s.dir s.stg.toNat)).nextStage) := by
  rw [stageStep_busy hb hr hg, execAll_stage s s.dir hg]
  by_cases h : s.stg = 4#3
  · simp [h]
  · have hn : s.stg.toNat ≠ 4 := fun e => h (BitVec.eq_of_toNat_eq e)
    simp [h, hn]

/-- STG 5, 6 and 7 select no stage. -/
theorem stageWords_none {d : BitVec 1} {g : BitVec 3} (h : ¬ g.toNat ≤ 4) : stageWords d g = none := by
  revert h
  revert d g
  decide

/-- What a stage step that answers a next state has done. -/
theorem stageStep_inv {s t : State} (h : stageStep s = .next t) :
    ((s.busy = false ∨ s.rst = true) ∧ t = s) ∨
    (s.busy = true ∧ s.rst = false ∧ s.stg.toNat ≤ 4 ∧
      t = if s.stg = 4#3 then (s.setSt (stageBlock s s.dir 4)).finish
          else (s.setSt (stageBlock s s.dir s.stg.toNat)).nextStage) := by
  cases hb : s.busy with
  | false => rw [stageStep_idle hb] at h; cases h; exact .inl ⟨.inl rfl, rfl⟩
  | true =>
    cases hr : s.rst with
    | true => rw [stageStep_held hr] at h; cases h; exact .inl ⟨.inr rfl, rfl⟩
    | false =>
      by_cases hg : s.stg.toNat ≤ 4
      · rw [stageStep_next hb hr hg] at h
        cases h
        exact .inr ⟨rfl, rfl, hg, rfl⟩
      · simp [stageStep, hb, hr, stageWords_none hg] at h

/-- The UOP decoder answers only the micro-ops of R74, with their legal indices. -/
theorem decodeUop_kinds {w : BitVec 8} {i : Instr} (h : decodeUop w = .ok i) :
    (∃ idx, i = .ark idx ∧ idx.toNat ≤ 4) ∨ i = .sub ∨ i = .isub ∨ i = .shr ∨ i = .mix ∨ i = .imix ∨
    (∃ idx, i = .kw idx ∧ 2 ≤ idx.toNat ∧ idx.toNat ≤ 9) ∨ i = .fin := by
  have key : (match decodeUop w with
      | .ok (.ark idx) => decide (idx.toNat ≤ 4)
      | .ok (.kw idx) => decide (2 ≤ idx.toNat ∧ idx.toNat ≤ 9)
      | .ok .nop => false
      | .ok .enc => false
      | .ok .dec => false
      | .ok .rsvdCmd => false
      | _ => true) = true := by
    clear h
    revert w
    decide
  rw [h] at key
  cases i <;> simp_all

/-- What a host action can do: an issue that is sampled, a reset, or no change to any register. -/
theorem hostAct_next {a : HostAction} {s t : State} (h : hostAct a s = .next t) :
    (∃ c x k, a = .issue c x k ∧ s.rst = false ∧ exec (decodeCmd c) (s.drivePorts x k) = .next t) ∨
    ((a = .reset ∨ a = .assertRst) ∧ t = (s.resetEngine.setRst (s.rst || decide (a = .assertRst)))) ∨
    (SameRegisters s t ∧ t.uopSlot = s.uopSlot ∧ t.sched = s.sched ∧ (t.rst = s.rst ∨ t.rst = false)) := by
  cases a with
  | issue c x k =>
    cases hr : s.rst with
    | true =>
      simp only [hostAct, issue, hr, if_true] at h
      cases h
      exact .inr (.inr ⟨⟨rfl, rfl, rfl, rfl, rfl, rfl, rfl, rfl, rfl, rfl⟩, rfl, rfl, .inl hr⟩)
    | false =>
      simp only [hostAct, issue, hr] at h
      exact .inl ⟨c, x, k, rfl, rfl, h⟩
  | readDout =>
    simp only [hostAct, readDout] at h
    split at h
    · cases h; exact .inr (.inr ⟨⟨rfl, rfl, rfl, rfl, rfl, rfl, rfl, rfl, rfl, rfl⟩, rfl, rfl, .inl rfl⟩)
    · cases h
  | reset => cases h; exact .inr (.inl ⟨.inl rfl, by simp [State.setRst, State.resetEngine]⟩)
  | assertRst => cases h; exact .inr (.inl ⟨.inr rfl, by simp⟩)
  | releaseRst => cases h; exact .inr (.inr ⟨⟨rfl, rfl, rfl, rfl, rfl, rfl, rfl, rfl, rfl, rfl⟩, rfl, rfl, .inr rfl⟩)
  | branch c n =>
    simp only [hostAct, branch] at h
    split at h <;> (cases h; exact .inr (.inr ⟨⟨rfl, rfl, rfl, rfl, rfl, rfl, rfl, rfl, rfl, rfl⟩, rfl, rfl, .inl rfl⟩))
  | returnBytes =>
    simp only [hostAct, returnBytes] at h
    split at h <;> (cases h; exact .inr (.inr ⟨⟨rfl, rfl, rfl, rfl, rfl, rfl, rfl, rfl, rfl, rfl⟩, rfl, rfl, .inl rfl⟩))
  | _ => cases h; exact .inr (.inr ⟨⟨rfl, rfl, rfl, rfl, rfl, rfl, rfl, rfl, rfl, rfl⟩, rfl, rfl, .inl rfl⟩)

/-- What an issued command answers: nothing, a rejection, or acceptance. -/
theorem exec_decodeCmd (c : BitVec 2) (s : State) :
    (c = 0b00#2 ∧ exec (decodeCmd c) s = .next s) ∨
    (c ≠ 0b00#2 ∧ s.busy = true ∧ exec (decodeCmd c) s = .next (s.reject eBusy)) ∨
    (c = 0b11#2 ∧ s.busy = false ∧ exec (decodeCmd c) s = .next (s.reject eRsvdCmd)) ∨
    ((c = 0b01#2 ∨ c = 0b10#2) ∧ s.busy = false ∧
      exec (decodeCmd c) s = .next (s.accept Config.params (if c = 0b10#2 then 1#1 else 0#1))) := by
  have hc : c = 0b00#2 ∨ c = 0b01#2 ∨ c = 0b10#2 ∨ c = 0b11#2 := by revert c; decide
  rcases hc with rfl | rfl | rfl | rfl <;> cases hb : s.busy <;>
    simp [decodeCmd, exec, execNop, execEnc, execDec, execRsvdCmd, startCommand, hb]

end Sys2Proof.Machine.Laws
end

