-- ==== Sys2Proof/Laws/Transforms.lean ====
section
/-!
SUPPORT. Small laws of the cipher's functions: exclusive or, lanes, bit vectors, and the matrix product that `mixcol` is.
-/

namespace Sys2Proof.Machine.Laws

@[simp] theorem column_xor_n0 (a b : Column) : (a.xor b).n0 = a.n0 ^^^ b.n0 := rfl
@[simp] theorem column_xor_n1 (a b : Column) : (a.xor b).n1 = a.n1 ^^^ b.n1 := rfl
@[simp] theorem block_xor_c0 (a b : Block) : (a.xor b).c0 = a.c0.xor b.c0 := rfl
@[simp] theorem block_xor_c1 (a b : Block) : (a.xor b).c1 = a.c1.xor b.c1 := rfl
@[simp] theorem mapColumn_n0 (f : Nibble → Nibble) (c : Column) : (mapColumn f c).n0 = f c.n0 := rfl
@[simp] theorem mapColumn_n1 (f : Nibble → Nibble) (c : Column) : (mapColumn f c).n1 = f c.n1 := rfl
@[simp] theorem mapCells_c0 (f : Nibble → Nibble) (b : Block) : (mapCells f b).c0 = mapColumn f b.c0 := rfl
@[simp] theorem mapCells_c1 (f : Nibble → Nibble) (b : Block) : (mapCells f b).c1 = mapColumn f b.c1 := rfl
@[simp] theorem mapColumns_c0 (f : Column → Column) (b : Block) : (mapColumns f b).c0 = f b.c0 := rfl
@[simp] theorem mapColumns_c1 (f : Column → Column) (b : Block) : (mapColumns f b).c1 = f b.c1 := rfl

theorem column_ext {a b : Column} (h0 : a.n0 = b.n0) (h1 : a.n1 = b.n1) : a = b := by
  cases a; cases b; simp_all

theorem block_ext {a b : Block} (h0 : a.c0 = b.c0) (h1 : a.c1 = b.c1) : a = b := by
  cases a; cases b; simp_all

theorem cell_mapCells (f : Nibble → Nibble) (b : Block) (c r : Bool) : cell (mapCells f b) c r = f (cell b c r) := by
  cases c <;> cases r <;> rfl

theorem column_xor_comm (a b : Column) : a.xor b = b.xor a :=
  column_ext (BitVec.xor_comm _ _) (BitVec.xor_comm _ _)

theorem column_xor_assoc (a b c : Column) : (a.xor b).xor c = a.xor (b.xor c) :=
  column_ext (BitVec.xor_assoc _ _ _) (BitVec.xor_assoc _ _ _)

/-- A bit vector, made a Column and read back, is itself (R56). -/
@[simp] theorem vec_unvec (v : Fin 8 → Bool) (j : Fin 8) : vec (unvec v) j = v j := by
  have key : ∀ b0 b1 b2 b3 b4 b5 b6 b7 : Bool, ∀ j : Fin 8,
      vec (unvec ![b0, b1, b2, b3, b4, b5, b6, b7]) j = ![b0, b1, b2, b3, b4, b5, b6, b7] j := by decide
  have hv : v = ![v 0, v 1, v 2, v 3, v 4, v 5, v 6, v 7] := by
    funext i
    fin_cases i <;> rfl
  rw [hv]
  exact key _ _ _ _ _ _ _ _ j

/-- A Column, read as a bit vector and made a Column again, is itself (R56). -/
@[simp] theorem unvec_vec (c : Column) : unvec (vec c) = c := by
  have key : ∀ a b : Nibble, unvec (vec ⟨a, b⟩) = ⟨a, b⟩ := by decide
  exact key c.n0 c.n1

/-- Columns with the same bit vector are the same. -/
theorem column_eq_of_vec {a b : Column} (h : ∀ j, vec a j = vec b j) : a = b := by
  rw [← unvec_vec a, ← unvec_vec b, funext h]

theorem vec_xor (a b : Column) (j : Fin 8) : vec (a.xor b) j = (vec a j ^^ vec b j) := by
  rw [vec, column_xor_n0, column_xor_n1, ← BitVec.xor_append, BitVec.getMsbD_xor]
  rfl

/-! ### Bits and GF(2) -/

@[simp] theorem bitToGf2_xor (a b : Bool) : bitToGf2 (a ^^ b) = bitToGf2 a + bitToGf2 b := by
  cases a <;> cases b <;> decide

@[simp] theorem bitToGf2_and (a b : Bool) : bitToGf2 (a && b) = bitToGf2 a * bitToGf2 b := by
  cases a <;> cases b <;> decide

@[simp] theorem bitToGf2_gf2Bit (x : ZMod 2) : bitToGf2 (gf2Bit x) = x := by
  revert x; decide

@[simp] theorem gf2Bit_bitToGf2 (b : Bool) : gf2Bit (bitToGf2 b) = b := by
  cases b <;> decide

theorem bitToGf2_inj {a b : Bool} (h : bitToGf2 a = bitToGf2 b) : a = b := by
  rw [← gf2Bit_bitToGf2 a, h, gf2Bit_bitToGf2]

/-- The parity of eight bits is their sum in GF(2) (R13). -/
theorem bitToGf2_parity (b : Fin 8 → Bool) : bitToGf2 (parity b) = ∑ i, bitToGf2 (b i) := by
  simp [parity, Fin.sum_univ_eight, add_assoc]

/-- `mixcol` is the product of the row vector with the matrix over GF(2) (R130). -/
theorem gf2Vec_mixcol (M : Matrix (Fin 8) (Fin 8) (ZMod 2)) (c : Column) :
    gf2Vec (mixcol M c) = Matrix.vecMul (gf2Vec c) M := by
  funext j
  simp [gf2Vec, mixcol, bitToGf2_parity, Matrix.vecMul, dotProduct]

/-- Columns with the same vector over GF(2) are the same. -/
theorem column_eq_of_gf2Vec {a b : Column} (h : gf2Vec a = gf2Vec b) : a = b :=
  column_eq_of_vec fun j => bitToGf2_inj (congrFun h j)

end Sys2Proof.Machine.Laws
end

