-- ==== Sys2Proof/Tests/Slice0.lean ====
section
/-!
SUPPORT. The author's own checks: well-formedness, encodings written out from the tables, vectors of 95_test_vectors.md, and a
witness for the hypotheses of every statement that has some.
-/

namespace Sys2Proof.Tests

open Sys2Proof.Machine Sys2Proof.Machine.Laws

/-! ### Well-formedness: each check refuses an ill-formed term -/

theorem test_wf_ark_index : (Instr.ark 4#4).wf = true ∧ (Instr.ark 5#4).wf = false := by decide
theorem test_wf_kw_index_low : (Instr.kw 2#4).wf = true ∧ (Instr.kw 1#4).wf = false := by decide
theorem test_wf_kw_index_high : (Instr.kw 9#4).wf = true ∧ (Instr.kw 10#4).wf = false := by decide

/-! ### Encodings, bit by bit from R71, R74 and R84 -/

theorem test_decode_nop : decodeCmd 0b00#2 = .nop := by decide
theorem test_decode_enc : decodeCmd 0b01#2 = .enc := by decide
theorem test_decode_dec : decodeCmd 0b10#2 = .dec := by decide
theorem test_decode_rsvdCmd : decodeCmd 0b11#2 = .rsvdCmd := by decide
theorem test_decode_ark : decode (.uop 0b00000011#8) = .ok (.ark 3#4) := by rfl
theorem test_decode_sub : decode (.uop 0b00010000#8) = .ok .sub := by rfl
theorem test_decode_isub : decode (.uop 0b00100000#8) = .ok .isub := by rfl
theorem test_decode_shr : decode (.uop 0b00110000#8) = .ok .shr := by rfl
theorem test_decode_mix : decode (.uop 0b01000000#8) = .ok .mix := by rfl
theorem test_decode_imix : decode (.uop 0b01010000#8) = .ok .imix := by rfl
theorem test_decode_kw : decode (.uop 0b01100111#8) = .ok (.kw 7#4) := by rfl
theorem test_decode_fin : decode (.uop 0b01110000#8) = .ok .fin := by rfl

/-- R79: one word of each kind of reserved word, and the bounds of the legal ranges. -/
theorem test_decode_reserved :
    decode (.uop 0x80#8) = .error (.reservedOp 8#4) ∧ decode (.uop 0x05#8) = .error (.reservedArkIndex 5#4) ∧
    decode (.uop 0x61#8) = .error (.reservedKwIndex 1#4) ∧ decode (.uop 0x6A#8) = .error (.reservedKwIndex 10#4) ∧
    decode (.uop 0x71#8) = .error (.nonzeroIndex 7#4 1#4) := ⟨rfl, rfl, rfl, rfl, rfl⟩

/-- R84's listings of ARK k3 and KW w7, and their words 0x03 and 0x67. -/
theorem test_listing : listing (.ark 3#4) = "ARK k3" ∧ encode (.ark 3#4) = .uop 0x03#8 ∧
    listing (.kw 7#4) = "KW w7" ∧ encode (.kw 7#4) = .uop 0x67#8 := by decide

/-- The opcode table's rows as the host numbers them (log 9). -/
theorem test_table_words : decodeTableWord 8 0 = some .nop ∧ decodeTableWord 2 2 = some .dec ∧
    decodeTableWord 8 4 = some (.ark 4#4) ∧ decodeTableWord 8 0x62 = some (.kw 2#4) ∧ decodeTableWord 8 0x60 = none := by
  decide

/-- A placed word runs as the first instruction after reset: FIN sets DONE, the reserved command sets ERR (log 8). -/
theorem test_placed_words :
    (∃ t, step (State.reset.withFetchWord 8 0x70) = .next t ∧ t.status = 0x02#8) ∧
    (∃ t, step (State.reset.withFetchWord 8 0x03) = .next t ∧ t.status = 0x0C#8) :=
  ⟨⟨_, rfl, rfl⟩, _, rfl, rfl⟩

/-! ### Vectors: packing and bit order (V-PK, V-VEC) -/

theorem test_unpack : unpack 0x6B5D#16 = ⟨⟨6, 11⟩, ⟨5, 13⟩⟩ ∧ pack ⟨⟨8, 0⟩, ⟨0, 1⟩⟩ = 0x8001#16 := by decide
theorem test_bytes : wordOfBytes 0x6B#8 0x5D#8 = 0x6B5D#16 ∧ byte0 0x1234#16 = 0x12#8 ∧ byte1 0x1234#16 = 0x34#8 := by decide

/-- V-VEC: Column 6B is 01101011. -/
theorem test_vec : (List.finRange 8).map (vec ⟨0x6, 0xB⟩) = [false, true, true, false, true, false, true, true] := by decide

/-! ### Vectors: the transforms (V-SHR, V-ARK, V-ST-RI) -/

theorem test_shr : pack (shiftRows (unpack 0x6B5D#16)) = 0x6D5B#16 ∧ pack (shiftRows (unpack 0x0F00#16)) = 0x000F#16 := by decide
theorem test_ark : pack (addRoundKey (unpack 0x1E26#16) (unpack 0x6B5D#16)) = 0x757B#16 := by decide
theorem test_sub_ri : pack (subBytes .ri (unpack 0x6B5D#16)) = 0x2FE1#16 := by decide
theorem test_isub_ri : pack (subBytesInverse .ri (unpack 0x1234#16)) = 0xD621#16 := by decide
theorem test_mix_ri : pack (mixColumns .ri (unpack 0x21EF#16)) = 0x47CD#16 := by decide
theorem test_imix_ri : pack (mixColumnsInverse .ri (unpack 0x8001#16)) = 0xB323#16 := by decide

/-- R131: `mixcol` of the unit Columns [8,0] and [0,1] is row 0 and row 7 of the matrix, which are not the columns. -/
theorem test_mixcol_rows : mixcol mixTRi ⟨8, 0⟩ = ⟨0xB, 0x3⟩ ∧ mixcol mixTRi ⟨0, 1⟩ = ⟨0x2, 0x3⟩ := by decide

/-- V-KS-1: all ten words of key 6B5D under RI. -/
theorem test_key_words_ri : (List.range 10).map (keyWord .ri (unpack 0x6B5D#16)) =
    [⟨6, 11⟩, ⟨5, 13⟩, ⟨6, 5⟩, ⟨3, 8⟩, ⟨1, 14⟩, ⟨2, 6⟩, ⟨7, 13⟩, ⟨5, 11⟩, ⟨0, 3⟩, ⟨5, 8⟩] := by decide

/-- V-ID-1: the words of key 6B5D under ID, where reverse and the round constants show. -/
theorem test_key_words_id : (List.range 10).map (keyWord .ident (unpack 0x6B5D#16)) =
    [⟨6, 11⟩, ⟨5, 13⟩, ⟨10, 14⟩, ⟨15, 3⟩, ⟨11, 1⟩, ⟨4, 2⟩, ⟨13, 5⟩, ⟨9, 7⟩, ⟨2, 12⟩, ⟨11, 11⟩] := by decide

/-- V-ENC-1 and V-DEC-1 (RI). -/
theorem test_enc_ri : encWord .ri 0x0000#16 0x6B5D#16 = 0x7D7E#16 := by decide +kernel
theorem test_dec_ri : decWord .ri 0x7D7E#16 0x6B5D#16 = 0x0000#16 := by decide +kernel

/-- V-ENC-1: the State after stage S2 is B90A; V-DEC-1: after S1 it is B90A too. -/
theorem test_stages_ri : afterStages .ri 0#1 (unpack 0x6B5D#16) (unpack 0x0000#16) 3 = unpack 0xB90A#16 ∧
    afterStages .ri 1#1 (unpack 0x6B5D#16) (unpack 0x7D7E#16) 2 = unpack 0xB90A#16 := by decide +kernel

/-- V-ASYM (RI): Enc' of 0000 under 6B5D is 6CF6, which decrypts to 60F5. -/
theorem test_asymmetry_ri : encBlockInjected .ri (unpack 0x6B5D#16) (unpack 0x0000#16) = unpack 0x6CF6#16 ∧
    decWord .ri 0x6CF6#16 0x6B5D#16 = 0x60F5#16 := by decide +kernel

/-! ### Vectors: the host interface (section 2.6 of 95_test_vectors.md), one step each -/

/-- A state whose host is about to do `a`. -/
def about (a : HostAction) (s : State) : State := { s with host := ⟨[a], 0, none, none, []⟩ , sched := [.host] }

/-- The same state at the sequencer's turn. -/
def sequencersTurn (s : State) : State := { s with sched := [.sequencer] }

/-- A state with an accepted encryption of 0000 under 6B5D. -/
def running : State := ({ State.reset with kin := 0x6B5D#16 }).accept Config.params 0#1

/-- STATUS after one step. -/
def statusAfter (s : State) : Option (BitVec 8) :=
  match step s with
  | .next t => some t.status
  | _ => none

/-- V-IF-1, -2, -3. -/
theorem test_if_1 : statusAfter (about .reset running) = some 0x00#8 := by decide
theorem test_if_2 : statusAfter (about (.issue 0b01#2 0 0) State.reset) = some 0x01#8 := by decide
theorem test_if_3 : statusAfter (about (.issue 0b10#2 0 0) State.reset) = some 0x01#8 := by decide
/-- V-IF-4, for the reserved command and for DEC. -/
theorem test_if_4 : statusAfter (about (.issue 0b11#2 0 0) running) = some 0x15#8 ∧
    statusAfter (about (.issue 0b10#2 0 0) running) = some 0x15#8 := by decide
/-- V-IF-5 and -6: FIN with and without an earlier rejection. -/
theorem test_if_5 : statusAfter (sequencersTurn { running with stg := 4#3, err := true, errcode := 2#2 }) = some 0x16#8 := by
  decide
theorem test_if_6 : statusAfter (sequencersTurn { running with stg := 4#3 }) = some 0x02#8 := by decide
/-- V-IF-7, -8, -9. -/
theorem test_if_7 : statusAfter (about (.issue 0b11#2 0 0) State.reset) = some 0x0C#8 := by decide
theorem test_if_8 : statusAfter (about (.issue 0b11#2 0 0) { State.reset with done := true }) = some 0x0E#8 := by decide
theorem test_if_9 :
    statusAfter (about (.issue 0b11#2 0 0) { State.reset with done := true, err := true, errcode := 2#2 }) = some 0x0E#8 := by
  decide
/-- V-IF-10 and -11. -/
theorem test_if_10 :
    statusAfter (about (.issue 0b01#2 0 0) { State.reset with done := true, err := true, errcode := 1#2 }) = some 0x01#8 := by
  decide
theorem test_if_11 : statusAfter (about (.issue 0b00#2 1 1) running) = some 0x01#8 := by decide
/-- V-IF-12: DOUT is ⊥ after reset. -/
theorem test_if_12 : step (about .readDout State.reset) = .fault .doutUnwritten := by rfl
/-- V-IF-13: a read while BUSY = 1 gives the previous result. -/
theorem test_if_13 :
    ∃ t, step (about .readDout { running with dout := .holding 0xFF7B#16 }) = .next t ∧
      t.host.lastDout = some 0xFF7B#16 ∧ t.status = 0x01#8 := ⟨_, rfl, rfl, rfl⟩
/-- V-SEQ-P: after ENC stage S0, ST = DIN xor KIN, whatever the tables. -/
theorem test_enc_stage_zero :
    ∃ t, step (sequencersTurn running) = .next t ∧ t.st = .holding (unpack 0x6B5D#16) ∧ t.stg = 1#3 := ⟨_, rfl, rfl, rfl⟩
/-- P3 row 14: BRANCH.ERR on 0x0E is taken; P1 row 12: BRANCH.BUSY on 0x02 is not. -/
theorem test_branch : Cond.holds .err 0x0E#8 = true ∧ Cond.holds .busy 0x02#8 = false := by decide
/-- P5 calls 1 and 2. -/
theorem test_wrong_lengths :
    assemble [.encrypt [0, 0, 0] [0x6B, 0x5D]] = some [.invalidInputSize 3 2] ∧
    assemble [.decrypt [0x7D, 0x7E] [0x6B]] = some [.invalidInputSize 2 1] := by decide
/-- P3's labels: the branches go back to their WAIT and forward over the NOP. -/
theorem test_assemble_labels :
    assemble [.wait, .branch .err 7, .nop, .label 7, .wait] =
      some [.readStatus, .branch .busy 0, .branch .err 4, .issue 0 0 0, .readStatus, .branch .busy 4] := by decide

/-! ### Witnesses: the hypotheses of the statements can be met -/

theorem running_word {i : Nat} (hi : i < 10) :
    running.word i = .holding (keyWord Config.params (unpack 0x6B5D#16) i) :=
  accept_word _ _ _ hi

theorem running_inFlight : InFlight 0#1 0x0000#16 0x6B5D#16 running :=
  ⟨rfl, rfl, rfl, by decide, rfl, rfl, fun _ hi => running_word hi, rfl⟩

/-- The same operation with four stages done. -/
def lastStage : State :=
  { running with stg := 4#3,
                 st := .holding (afterStages Config.params 0#1 (unpack 0x6B5D#16) (unpack 0x0000#16) 4) }

theorem lastStage_inFlight : InFlight 0#1 0x0000#16 0x6B5D#16 lastStage :=
  ⟨rfl, rfl, rfl, by decide, rfl, rfl, fun _ hi => running_word hi, rfl⟩

theorem witness_ResetEventFromEveryState :
    HostResets (about .reset running) ∧ HostResets (about .assertRst running) :=
  ⟨.inl (by decide), .inr (by decide)⟩

theorem witness_ResetLeavesPortsAndHost : HostDoes .reset (about .reset running) := by decide

theorem witness_HeldResetStopsTheEngine :
    ({ about (.issue 0b01#2 1 1) State.reset with rst := true }).rst = true ∧
    HostDoes (.issue 0b01#2 1 1) { about (.issue 0b01#2 1 1) State.reset with rst := true } ∧
    SequencerMoves { sequencersTurn State.reset with rst := true } := by decide

theorem witness_DecodeEncodeAgree : (Instr.kw 9#4).wf = true ∧ (Instr.ark 0#4).wf = true := by decide

theorem witness_DecodedWordIsItsEncoding : decode (.uop 0x69#8) = .ok (.kw 9#4) ∧ decode (.cmd 0b11#2) = .ok .rsvdCmd :=
  ⟨rfl, rfl⟩

theorem witness_ReservedMicroOpsRefused :
    decodeUop 0x0F#8 = .error (.reservedArkIndex 15#4) ∧ stageWords 1#1 4#3 = some [0x00#8, 0x70#8] ∧ 0x69#8 ∈ kxWords := by
  refine ⟨rfl, by decide, by decide⟩

theorem witness_ReservedIndexRefused :
    decodeUop 0x71#8 = .error (.nonzeroIndex 7#4 1#4) ∧ 5 ≤ (5#4).toNat ∧ ((1#4).toNat ≤ 1 ∨ 10 ≤ (1#4).toNat) ∧ ((10#4).toNat ≤ 1 ∨ 10 ≤ (10#4).toNat) :=
  ⟨rfl, by decide, by decide, by decide⟩

theorem witness_micro_op_operands :
    running.st = .holding (unpack 0x0000#16) ∧ (4#4).toNat ≤ 4 ∧
    running.word (2 * (4#4).toNat) = .holding (keyWord Config.params (unpack 0x6B5D#16) 8) ∧
    running.word (2 * (4#4).toNat + 1) = .holding (keyWord Config.params (unpack 0x6B5D#16) 9) :=
  ⟨rfl, by decide, running_word (by decide), running_word (by decide)⟩

theorem witness_KwComputesOneWord_even :
    2 ≤ (2#4).toNat ∧ (2#4).toNat ≤ 9 ∧ running.word ((2#4).toNat - 2) = .holding ⟨6, 11⟩ ∧
    running.word ((2#4).toNat - 1) = .holding ⟨5, 13⟩ := ⟨by decide, by decide, running_word (by decide), running_word (by decide)⟩

theorem witness_KwComputesOneWord_odd :
    2 ≤ (9#4).toNat ∧ (9#4).toNat ≤ 9 ∧ ∃ a b p q, running.word ((9#4).toNat - 2) = .holding ⟨a, b⟩ ∧
    running.word ((9#4).toNat - 1) = .holding ⟨p, q⟩ :=
  ⟨by decide, by decide, _, _, _, _, running_word (by decide), running_word (by decide)⟩

theorem witness_ShrAndArkAreInvolutions : (4#4).toNat ≤ 4 ∧ (running.roundKey (4#4).toNat).written = true := by decide

theorem witness_NopChangesNothing : HostDoes (.issue 0b00#2 7 7) (about (.issue 0b00#2 7 7) running) := by decide

theorem witness_AcceptanceLatchesAndExpands :
    State.reset.busy = false ∧ ((Instr.dec = .enc ∧ 1#1 = 0#1) ∨ (Instr.dec = .dec ∧ 1#1 = 1#1)) := by decide

theorem witness_CommandWhileBusyIsRejected :
    (Instr.rsvdCmd = .enc ∨ Instr.rsvdCmd = .dec ∨ Instr.rsvdCmd = .rsvdCmd) ∧ running.busy = true ∧
    HostDoes (.issue 0b11#2 1 2) (about (.issue 0b11#2 1 2) running) ∧ (about (.issue 0b11#2 1 2) running).rst = false ∧
    InFlight 0#1 0x0000#16 0x6B5D#16 (about (.issue 0b11#2 1 2) running) :=
  ⟨by decide, rfl, by decide, rfl, running_inFlight⟩

theorem witness_ReservedCommandWhenIdle :
    State.reset.busy = false ∧ HostDoes (.issue 0b11#2 1 2) (about (.issue 0b11#2 1 2) State.reset) ∧
    (about (.issue 0b11#2 1 2) State.reset).rst = false := by decide

theorem witness_IssueAnswersByPriority : running.rst = false ∧ running.busy = true ∧ State.reset.rst = false ∧
    State.reset.busy = false ∧ (0b10#2 = 0b01#2 ∨ 0b10#2 = 0b10#2) := by decide

theorem witness_StepRunsTheIssuedCommand :
    HostDoes (.issue 0b11#2 1 2) (about (.issue 0b11#2 1 2) running) ∧ (about (.issue 0b11#2 1 2) running).rst = false := by
  decide

theorem witness_StepRunsTheStage :
    SequencerMoves (sequencersTurn lastStage) ∧ (sequencersTurn lastStage).rst = false ∧
    (sequencersTurn lastStage).busy = true ∧ (sequencersTurn lastStage).stg.toNat ≤ 4 ∧
    SequencerMoves (sequencersTurn State.reset) ∧ (sequencersTurn State.reset).busy = false :=
  ⟨⟨rfl, rfl⟩, rfl, rfl, by decide, ⟨rfl, rfl⟩, rfl⟩

theorem witness_StepRunsThePlacedWord : decodeUop (BitVec.ofNat 8 4) = .ok (.ark 4#4) ∧
    decodeUop (BitVec.ofNat 8 0x70) = .ok .fin := ⟨rfl, rfl⟩

theorem witness_HostReadsAndPortChangesHaveNoEffect :
    HostDoes .readStatus (about .readStatus running) ∧
    HostDoes (.drive 1 2) (about (.drive 1 2) running) := by decide

theorem witness_ReadDoutReturnsDoutOrFaults :
    HostDoes .readDout (about .readDout { running with dout := .holding 7#16 }) ∧
    (about .readDout { running with dout := .holding 7#16 }).dout = .holding 7#16 ∧
    HostDoes .readDout (about .readDout State.reset) ∧ (about .readDout State.reset).dout.written = false := by decide

theorem running_consistent : Consistent running := by
  refine ⟨by decide, by decide, by decide, by decide, by decide, fun _ => ⟨rfl, rfl, ?_⟩⟩
  intro i hi
  rw [running_word hi]
  rfl

theorem witness_OnlyTheUnwrittenReadStops :
    Consistent running ∧ running.uopSlot = none ∧ Consistent (about .readDout State.reset) ∧
    step (about .readDout State.reset) = .fault .doutUnwritten :=
  ⟨running_consistent, rfl, by decide, rfl⟩

theorem witness_EveryStepKeepsConsistent :
    Consistent (sequencersTurn running) ∧ ∃ t, step (sequencersTurn running) = .next t :=
  ⟨running_consistent, _, rfl⟩

theorem witness_DoneMeansDoutIsWritten :
    Consistent { State.reset with done := true, dout := .holding 7#16 } ∧
    ∃ t, step { about .readStatus State.reset with
      done := true, dout := .holding 7#16, host := ⟨[.readStatus, .readDout], 0, none, none, []⟩ } = .next t ∧
      t.done = true ∧ HostDoes .readDout t :=
  ⟨by decide, _, rfl, rfl, rfl, rfl, rfl⟩

theorem witness_DoutChangesOnlyAtFin :
    ∃ t, step (sequencersTurn lastStage) = .next t ∧ t.dout ≠ (sequencersTurn lastStage).dout :=
  ⟨_, rfl, fun h => absurd (congrArg Reg.written h) (by decide)⟩

theorem witness_ErrorsAreSticky :
    (∃ t, (about (.issue 0b01#2 0 0) { State.reset with err := true, errcode := 1#2 }).err = true ∧
      step (about (.issue 0b01#2 0 0) { State.reset with err := true, errcode := 1#2 }) = .next t ∧ t.err = false) ∧
    (∃ t, step (about (.issue 0b11#2 0 0) { running with err := true, errcode := 1#2 }) = .next t ∧ t.errcode = 2#2 ∧
      Rejects t.errcode (about (.issue 0b11#2 0 0) { running with err := true, errcode := 1#2 })) ∧
    (∃ t, step (sequencersTurn { running with err := true, errcode := 2#2 }) = .next t ∧ t.errcode = 2#2) :=
  ⟨⟨_, rfl, rfl, rfl⟩, ⟨_, rfl, rfl, _, _, _, ⟨rfl, rfl, rfl⟩, rfl, .inl ⟨by decide, rfl, rfl⟩⟩, _, rfl, rfl⟩

theorem witness_KeyMaterialChangesOnlyAtAcceptance :
    ∃ t, step (about (.issue 0b10#2 0 0) State.reset) = .next t ∧ t.dir ≠ (about (.issue 0b10#2 0 0) State.reset).dir :=
  ⟨_, rfl, by decide⟩

theorem witness_QuiescentMachineStays : State.reset.uopSlot = none ∧ State.reset.busy = false ∧ nextLine State.reset = none := by
  decide

theorem witness_RunningOperationStarts :
    HostDoes (.issue 0b10#2 1 2) (about (.issue 0b10#2 1 2) State.reset) ∧ State.reset.busy = false ∧ State.reset.rst = false := by
  decide

theorem witness_RunningOperationReachesItsResult :
    InFlight 0#1 0x0000#16 0x6B5D#16 (sequencersTurn lastStage) ∧ ¬ HostResets (sequencersTurn lastStage) ∧
    (sequencersTurn lastStage).uopSlot = none ∧
    ∃ t, step (sequencersTurn lastStage) = .next t ∧ t.busy = false :=
  ⟨lastStage_inFlight, not_or.2 ⟨(by rintro ⟨_, h, _⟩; cases h), (by rintro ⟨_, h, _⟩; cases h)⟩, rfl, _, rfl, rfl⟩

theorem witness_RunningOperationUnderAnIssue :
    InFlight 0#1 0x0000#16 0x6B5D#16 (about (.issue 0b10#2 9 9) running) ∧
    ¬ HostResets (about (.issue 0b10#2 9 9) running) ∧ (about (.issue 0b10#2 9 9) running).uopSlot = none ∧
    ∃ t, step (about (.issue 0b10#2 9 9) running) = .next t ∧ t.busy = true :=
  ⟨running_inFlight, not_or.2 ⟨(by rintro ⟨_, _, h⟩; cases h), (by rintro ⟨_, _, h⟩; cases h)⟩, rfl, _, rfl, rfl⟩

/-- A completed operation whose host is about to read DOUT. -/
def completed : State := about .readDout { State.reset with done := true, dout := .holding 7#16 }

theorem witness_ResultStaysUntilTheNextAcceptance :
    completed.uopSlot = none ∧ completed.busy = false ∧ completed.done = true ∧ ¬ Accepts completed ∧ ¬ HostResets completed ∧
    ∃ t, step completed = .next t :=
  ⟨rfl, rfl, rfl, (by rintro ⟨_, _, _, ⟨_, _, h⟩, _⟩; cases h),
    not_or.2 ⟨(by rintro ⟨_, _, h⟩; cases h), (by rintro ⟨_, _, h⟩; cases h)⟩, _, rfl⟩

theorem witness_CommandsComputeTheCipher : State.reset.busy = false ∧ State.reset.rst = false := by decide

theorem witness_FiveStagesPerCommand :
    running.busy = true ∧ running.rst = false ∧ running.stg.toNat = 0 ∧ lastStage.stg.toNat = 4 := by decide

theorem witness_ControlIgnoresData :
    ∃ t, stageStep running = .next t ∧ running.st ≠ ({ running with st := .holding (unpack 1#16) }).st :=
  ⟨_, rfl, fun h => absurd (congrArg Reg.val h) (by decide)⟩

theorem witness_EveryCommandEnds : Consistent running ∧ running.uopSlot = none ∧ running.busy = true ∧ running.rst = false :=
  ⟨running_consistent, rfl, rfl, rfl⟩

theorem witness_PseudoInstructionsExpand :
    ∀ h ∈ [HostLine.enc 0 0] ++ [.label 1, .branch .err 1], h ≠ .label 2 ∧ ∀ c, h ≠ .branch c 2 := by
  simp

theorem witness_WrongLengthCallTouchesNothing :
    ([] : List Byte).length ≠ 2 ∧ ([0, 0, 0] : List Byte).length ≠ 2 ∧
    HostDoes (.invalidInputSize 3 2) (about (.invalidInputSize 3 2) running) := by decide

theorem witness_ByteCallsReturnTheCipherBytes :
    ∃ s : State, s.busy = false ∧ s.rst = false ∧ s.uopSlot = none ∧ s.sched = [] ∧ s.host.pc = 0 ∧
      assemble [.encrypt [0, 0] [0x6B, 0x5D]] = some s.host.prog :=
  ⟨{ State.reset with host := ⟨callLines 0b01#2 [0, 0] [0x6B, 0x5D] 0, 0, none, none, []⟩ }, rfl, rfl, rfl, rfl, rfl, rfl⟩

end Sys2Proof.Tests
end

section
/-!
PROOFS. The family of the state: the reset values, the STATUS word, the invariants of R44, and which steps change which
registers. The moves a step can make are said once (`Move`, `step_move`); the safety statements are read off from them.
-/

namespace Sys2Proof.Machine.Proofs

open Sys2Proof.Machine.Laws

/-! ### The STATUS word, field by field (R33, R34) -/

/-- What each part of the STATUS word reads: the packing is over two bits of ERRCODE and three flags. -/
theorem status_fields (s : State) :
    s.status.extractLsb' 5 3 = 0#3 ∧ s.status.extractLsb' 3 2 = s.errcode ∧ s.status.getLsbD 2 = s.err ∧
    s.status.getLsbD 1 = s.done ∧ s.status.getLsbD 0 = s.busy := by
  unfold State.status
  generalize s.errcode = code, s.err = err, s.done = done, s.busy = busy
  revert code err done busy
  decide

/-- The STATUS word tells the four fields, and nothing else. -/
theorem status_eq_iff {s t : State} :
    s.status = t.status ↔ s.busy = t.busy ∧ s.done = t.done ∧ s.err = t.err ∧ s.errcode = t.errcode := by
  obtain ⟨_, hcode, herr, hdone, hbusy⟩ := status_fields s
  obtain ⟨_, hcode', herr', hdone', hbusy'⟩ := status_fields t
  constructor
  · intro h
    rw [h] at hcode herr hdone hbusy
    exact ⟨hbusy.symm.trans hbusy', hdone.symm.trans hdone', herr.symm.trans herr', hcode.symm.trans hcode'⟩
  · rintro ⟨hb, hd, he, hc⟩
    simp only [State.status, hb, hd, he, hc]

/-- Settles O31: the fields are read off the packing, and each example is the STATUS word of a state with the fields
named. -/
theorem statusWordLayout : Obligations.StatusWordLayout := by
  intro s
  obtain ⟨hzero, hcode, herr, hdone, hbusy⟩ := status_fields s
  refine ⟨hzero, hcode, herr, hdone, hbusy, ?_, ?_, ?_⟩
  · exact status_eq_iff (t := { State.reset with done := true })
  · exact status_eq_iff (t := { State.reset with busy := true })
  · exact status_eq_iff (t := { State.reset with busy := true, err := true, errcode := 2#2 })

/-! ### The moves of a step -/

theorem sameRegisters_refl (s : State) : SameRegisters s s :=
  ⟨rfl, rfl, rfl, rfl, rfl, rfl, rfl, rfl, rfl, rfl⟩

/-- The host's line is one action. -/
theorem hostDoes_unique {a b : HostAction} {s : State} (ha : HostDoes a s) (hb : HostDoes b s) : a = b :=
  Option.some.inj (ha.2.2.symm.trans hb.2.2)

theorem not_rejects_of_sequencerMoves {s : State} (h : SequencerMoves s) (code : BitVec 2) : ¬ Rejects code s := by
  rintro ⟨_, _, _, ⟨_, hhost, _⟩, _⟩
  exact absurd (h.2.symm.trans hhost) (by decide)

/-- Only an Issue is rejected. -/
theorem not_rejects_of_hostDoes {a : HostAction} {s : State} (h : HostDoes a s) (ha : ∀ c x k, a ≠ .issue c x k)
    (code : BitVec 2) : ¬ Rejects code s := by
  rintro ⟨c, x, k, hissue, _⟩
  exact ha c x k (hostDoes_unique h hissue)

/-- A NOP is not rejected (R164). -/
theorem not_rejects_of_nop {x k : PortWord} {s : State} (h : HostDoes (.issue 0b00#2 x k) s) (code : BitVec 2) :
    ¬ Rejects code s := by
  rintro ⟨c, x', k', hissue, _, hcase⟩
  cases hostDoes_unique h hissue
  simp at hcase

/-- What a step from `s` to `t` has done, when no word was placed from outside (R20, R181): nothing to the registers, a
stage, a rejection, an acceptance, or a reset. -/
inductive Move (s t : State) : Prop where
  | quiet (same : SameRegisters s t) (slot : t.uopSlot = s.uopSlot) (line : t.rst = s.rst ∨ t.rst = false)
      (noReject : ∀ code, ¬ Rejects code s)
  | stage (moves : SequencerMoves s) (busy : s.busy = true) (released : s.rst = false) (bound : s.stg.toNat ≤ 4)
      (next : t = if s.stg = 4#3 then (s.popSched.setSt (stageBlock s.popSched s.dir 4)).finish
                  else (s.popSched.setSt (stageBlock s.popSched s.dir s.stg.toNat)).nextStage)
  | reject (code : BitVec 2) (x k : PortWord) (rejects : Rejects code s)
      (next : t = ((advanceHost s.popSched).drivePorts x k).reject code)
  | accept (d : BitVec 1) (x k : PortWord) (accepts : Accepts s)
      (next : t = ((advanceHost s.popSched).drivePorts x k).accept Config.params d)
  | reset (held : Bool) (resets : HostResets s) (next : t = (advanceHost s.popSched).resetEngine.setRst held)

/-- The engine's answer to an Issue, by its priorities (R181). -/
theorem issue_move {c : BitVec 2} {x k : PortWord} {s t : State} (hd : HostDoes (.issue c x k) s)
    (h : step s = .next t) : Move s t := by
  rw [step_of_hostDoes hd] at h
  cases hr : s.rst with
  | true =>
    simp only [hostAct, issue, advanceHost_rst, popSched_rst, hr, if_true] at h
    cases h
    refine .quiet (sameRegisters_refl s) rfl (.inl rfl) ?_
    rintro code ⟨_, _, _, _, hr', _⟩
    simp [hr] at hr'
  | false =>
    simp only [hostAct, issue, advanceHost_rst, popSched_rst, hr] at h
    rcases exec_decodeCmd c ((advanceHost s.popSched).drivePorts x k) with
      ⟨rfl, he⟩ | ⟨hc, hb, he⟩ | ⟨hc, hb, he⟩ | ⟨hc, hb, he⟩ <;> cases he.symm.trans h
    · exact .quiet (sameRegisters_refl s) rfl (.inl rfl) (not_rejects_of_nop hd)
    · exact .reject eBusy x k ⟨c, x, k, hd, hr, .inl ⟨hc, hb, rfl⟩⟩ rfl
    · exact .reject eRsvdCmd x k ⟨c, x, k, hd, hr, .inr ⟨hc, hb, rfl⟩⟩ rfl
    · exact .accept _ x k ⟨c, x, k, hd, hc, hb, hr⟩ rfl

theorem hostAct_move {a : HostAction} {s t : State} (hd : HostDoes a s) (h : step s = .next t) : Move s t := by
  by_cases ha : ∃ c x k, a = .issue c x k
  · obtain ⟨c, x, k, rfl⟩ := ha
    exact issue_move hd h
  · have hni : ∀ c x k, a ≠ .issue c x k := fun c x k e => ha ⟨c, x, k, e⟩
    rw [step_of_hostDoes hd] at h
    rcases hostAct_next h with ⟨c, x, k, e, _⟩ | ⟨hreset, ht⟩ | ⟨hsame, hslot, _, hline⟩
    · exact absurd e (hni c x k)
    · have hresets : HostResets s := by
        rcases hreset with rfl | rfl
        · exact .inl hd
        · exact .inr hd
      exact .reset _ hresets ht
    · exact .quiet hsame hslot hline (not_rejects_of_hostDoes hd hni)

/-- Every step that answers a next state, no word placed, is one of the moves. -/
theorem step_move {s t : State} (hu : s.uopSlot = none) (h : step s = .next t) : Move s t := by
  rcases step_cases s with ⟨w, hw, _⟩ | ⟨hm, hs⟩ | ⟨a, hd, _⟩ | ⟨_, _, hl, hs⟩
  · simp [hu] at hw
  · rcases stageStep_inv (hs.symm.trans h) with ⟨_, rfl⟩ | ⟨hb, hr, hg, ht⟩
    · exact .quiet (sameRegisters_refl s) rfl (.inl rfl) (not_rejects_of_sequencerMoves hm)
    · exact .stage hm hb hr hg ht
  · exact hostAct_move hd h
  · cases hs.symm.trans h
    refine .quiet (sameRegisters_refl s) rfl (.inl rfl) ?_
    rintro code ⟨_, _, _, ⟨_, _, hline⟩, _⟩
    simp [hl] at hline

/-- No step fills the slot (log 8). -/
theorem Move.uopSlot_eq {s t : State} (m : Move s t) : t.uopSlot = s.uopSlot := by
  cases m with
  | quiet _ slot _ _ => exact slot
  | stage _ _ _ _ next => subst next; split <;> rfl
  | reject _ _ _ _ next => subst next; rfl
  | accept _ _ _ _ next => subst next; simp
  | reset _ _ next => subst next; rfl

/-! ### Reset (R41, R220) -/

/-- Settles O1: State.reset is the reset of itself, and its host has no line. -/
theorem resetStateHoldsTheSpecValues : Obligations.ResetStateHoldsTheSpecValues :=
  ⟨resetEngine_atReset State.reset, rfl, rfl⟩

/-- Settles O3: the reset event keeps everything that is not a register. -/
theorem resetLeavesPortsAndHost : Obligations.ResetLeavesPortsAndHost := by
  intro s hd
  exact ⟨_, step_of_hostDoes hd, rfl, rfl, rfl, hd.1, rfl, rfl⟩

/-! ### The invariants (a) to (f) of R44 under each operation -/

theorem consistent_of_atReset {s : State} (h : RegistersAtReset s) : Consistent s := by
  obtain ⟨hb, hd, he, hc, hg, _⟩ := h
  simp [Consistent, hb, hd, he, hc, hg]

/-- Settles O35: that state is the reset of itself. -/
theorem consistentAtReset : Obligations.ConsistentAtReset := fun h l =>
  consistent_of_atReset (resetEngine_atReset { State.reset with host := h, sched := l })

theorem consistent_of_sameRegisters {s t : State} (h : SameRegisters s t) (hs : Consistent s) : Consistent t := by
  obtain ⟨hst, hkey, hw, _, hstg, _, hbusy, hdone, herr, hcode⟩ := h
  simpa only [Consistent, hst, hkey, word_congr hw, hstg, hbusy, hdone, herr, hcode] using hs

section
variable {s : State} (hs : Consistent s)
include hs

/-- R44 (f). -/
theorem written_of_busy (hbusy : s.busy = true) :
    s.st.written = true ∧ s.key.written = true ∧ ∀ i, i < 10 → (s.word i).written = true := by
  obtain ⟨_, _, _, _, _, hf⟩ := hs
  exact hf hbusy

/-- A stage's block is written while the operation runs. -/
theorem stageBlock_written_of_busy (hbusy : s.busy = true) (d : BitVec 1) {n : Nat} (hn : n ≤ 4) :
    (stageBlock s d n).written = true := by
  obtain ⟨hst, _, hw⟩ := written_of_busy hs hbusy
  exact stageBlock_written hst hw d hn

/-- ST may take any written value, and any value while BUSY = 0. -/
theorem consistent_setSt {r : Reg Block} (hr : s.busy = true → r.written = true) : Consistent (s.setSt r) := by
  obtain ⟨ha, hb, hc, hd, he, hf⟩ := hs
  exact ⟨ha, hb, hc, hd, he, fun hbusy => ⟨hr hbusy, (hf hbusy).2⟩⟩

theorem consistent_stage (hbusy : s.busy = true) (d : BitVec 1) {n : Nat} (hn : n ≤ 4) :
    Consistent (s.setSt (stageBlock s d n)) :=
  consistent_setSt hs fun _ => stageBlock_written_of_busy hs hbusy d hn

theorem consistent_transform (f : Block → Block) : Consistent (s.transform f) :=
  consistent_setSt hs fun hbusy => (written_of_busy hs hbusy).1

theorem consistent_addKey {i : Nat} (hi : i ≤ 4) : Consistent (s.addKey i) :=
  consistent_setSt hs fun hbusy => by
    obtain ⟨hst, _, hw⟩ := written_of_busy hs hbusy
    simp [State.roundKey, hst, hw (2 * i) (by omega), hw (2 * i + 1) (by omega)]

theorem consistent_computeWord (P : Params) {i : Nat} (hi : i < 10) : Consistent (s.computeWord P i) := by
  obtain ⟨ha, hb, hc, hd, he, hf⟩ := hs
  refine ⟨ha, hb, hc, hd, he, fun hbusy => ?_⟩
  obtain ⟨hst, hkey, hw⟩ := hf hbusy
  refine ⟨hst, hkey, fun j hj => ?_⟩
  rw [computeWord_word P s i j hi]
  split
  · simp [hw (i - 2) (by omega), hw (i - 1) (by omega)]
  · exact hw j hj

theorem consistent_finish : Consistent s.finish := by
  obtain ⟨_, _, _, hd, he, _⟩ := hs
  exact ⟨by simp, by simp, by simp, hd, he, by simp⟩

theorem consistent_nextStage (hbusy : s.busy = true) (h4 : s.stg ≠ 4#3) : Consistent s.nextStage := by
  obtain ⟨ha, _, hc, hd, he, hf⟩ := hs
  have hcount : ∀ g : BitVec 3, g.toNat ≤ 4 → g ≠ 4#3 → (g + 1#3).toNat ≤ 4 := by decide
  exact ⟨ha, by simp [hbusy], hcount s.stg hc h4, hd, he, hf⟩

theorem consistent_reject {code : BitVec 2} (h0 : code ≠ 0#2) (h3 : code ≠ 3#2) : Consistent (s.reject code) := by
  obtain ⟨ha, hb, hc, _, _, hf⟩ := hs
  exact ⟨ha, hb, hc, by simp [h0], h3, hf⟩

end

/-- Acceptance makes the invariants true whatever the state was: it writes every register they speak of (R155). -/
theorem consistent_accept (P : Params) (d : BitVec 1) (s : State) : Consistent (s.accept P d) := by
  refine ⟨by simp, by simp, by simp, by simp, by simp, fun _ => ⟨by simp, by simp, fun i hi => ?_⟩⟩
  simp [accept_word P d s hi]

/-- A rejection's code is that of `E_RSVD_CMD` or of `E_BUSY` (R32). -/
theorem code_of_rejects {code : BitVec 2} {s : State} (h : Rejects code s) : code = 1#2 ∨ code = 2#2 := by
  obtain ⟨_, _, _, _, _, ⟨_, _, hcode⟩ | ⟨_, _, hcode⟩⟩ := h
  · exact .inr hcode
  · exact .inl hcode

/-- Every move keeps the invariants. -/
theorem Move.consistent {s t : State} (m : Move s t) (hs : Consistent s) : Consistent t := by
  cases m with
  | quiet same _ _ _ => exact consistent_of_sameRegisters same hs
  | stage _ busy _ bound next =>
    have hpop : Consistent s.popSched := hs
    subst next
    split
    · exact consistent_finish (consistent_stage hpop busy s.dir le_rfl)
    · next h4 => exact consistent_nextStage (consistent_stage hpop busy s.dir bound) busy h4
  | reject code x k rejects next =>
    have hdriven : Consistent ((advanceHost s.popSched).drivePorts x k) := hs
    subst next
    rcases code_of_rejects rejects with rfl | rfl <;> exact consistent_reject hdriven (by decide) (by decide)
  | accept d x k _ next => subst next; exact consistent_accept _ d _
  | reset held _ next =>
    subst next
    exact consistent_of_atReset (s := (advanceHost s.popSched).resetEngine) (resetEngine_atReset _)

/-- A micro-op placed from outside (log 8) keeps the invariants too, whether BUSY is 0 or 1. -/
theorem runWord_consistent {w : BitVec 8} {s t : State} (hs : Consistent s) (h : runWord w s = .next t) :
    Consistent t := by
  cases hw : decodeUop w with
  | error e => simp [runWord, hw] at h
  | ok i =>
    rw [runWord_of_decode hw] at h
    rcases decodeUop_kinds hw with ⟨idx, rfl, hi⟩ | rfl | rfl | rfl | rfl | rfl | ⟨idx, rfl, h2, h9⟩ | rfl
    · cases (exec_ark_of_le hi s).symm.trans h
      exact consistent_addKey hs hi
    iterate 5
      · cases h
        exact consistent_transform hs _
    · cases (exec_kw_of_mem h2 h9 s).symm.trans h
      exact consistent_computeWord hs _ (by omega)
    · cases h
      exact consistent_finish hs

theorem slotStep_consistent {w : BitVec 8} {s t : State} (hs : Consistent s) (h : slotStep w s = .next t) :
    Consistent t := by
  have hclear : Consistent s.clearSlot := hs
  unfold slotStep at h
  split at h
  · cases h
    exact hclear
  · exact runWord_consistent hclear h

theorem step_of_slot {w : BitVec 8} {s : State} (hu : s.uopSlot = some w) : step s = slotStep w s := by
  simp only [step, hu]

/-- Settles O36: a placed word by `slotStep_consistent`, every other step by the moves. -/
theorem everyStepKeepsConsistent : Obligations.EveryStepKeepsConsistent := by
  intro s t hs h
  cases hu : s.uopSlot with
  | none => exact (step_move hu h).consistent hs
  | some w => exact slotStep_consistent hs ((step_of_slot hu).symm.trans h)

/-! ### Which moves change which registers -/

/-- Of the moves only FIN and a reset write DOUT. -/
theorem Move.dout_eq_or {s t : State} (m : Move s t) :
    t.dout = s.dout ∨ HostResets s ∨
    (SequencerMoves s ∧ s.busy = true ∧ s.stg = 4#3 ∧ t = (s.popSched.setSt (stageBlock s.popSched s.dir 4)).finish) := by
  cases m with
  | quiet same _ _ _ =>
    obtain ⟨_, _, _, _, _, hdout, _⟩ := same
    exact .inl hdout
  | stage moves busy _ _ next =>
    split at next
    · next h4 => exact .inr (.inr ⟨moves, busy, h4, next⟩)
    · subst next; exact .inl rfl
  | reject _ _ _ _ next => subst next; exact .inl rfl
  | accept _ _ _ _ next => subst next; exact .inl (by simp)
  | reset _ resets _ => exact .inr (.inl resets)

/-- Settles O38: DOUT's writers are those of `Move.dout_eq_or`, and FIN's result is the packed ST. -/
theorem doutChangesOnlyAtFin : Obligations.DoutChangesOnlyAtFin := by
  intro s t hu h hne
  rcases (step_move hu h).dout_eq_or with hsame | hreset | ⟨hm, hb, h4, rfl⟩
  · exact absurd hsame hne
  · exact .inl hreset
  · exact .inr ⟨hm, hb, h4, rfl, rfl, rfl⟩

/-- DONE = 1 means that DOUT is written: FIN, which sets DONE, packs an ST that R44 (f) says is written. -/
theorem Move.dout_written {s t : State} (m : Move s t) (hs : Consistent s)
    (hdone : s.done = true → s.dout.written = true) : t.done = true → t.dout.written = true := by
  cases m with
  | quiet same _ _ _ =>
    obtain ⟨_, _, _, _, _, hdout, _, hdone', _⟩ := same
    rwa [hdout, hdone']
  | stage _ busy _ _ next =>
    have hpop : Consistent s.popSched := hs
    subst next
    split
    · exact fun _ => stageBlock_written_of_busy hpop busy s.dir le_rfl
    · exact hdone
  | reject _ _ _ _ next => subst next; exact hdone
  | accept _ _ _ _ next => subst next; simp
  | reset _ _ next => subst next; simp [State.reset]

theorem step_readDout {s : State} (hd : HostDoes .readDout s) (hw : s.dout.written = true) :
    ∃ u, step s = .next u ∧ u.host.lastDout = some s.dout.val := by
  rw [step_of_hostDoes hd]
  simp [hostAct, readDout, hw]

/-- Settles O37, by the moves and R44 (f). -/
theorem doneMeansDoutIsWritten : Obligations.DoneMeansDoutIsWritten := by
  intro s t hs hu hdone h
  have m := step_move hu h
  have hw := m.dout_written hs hdone
  exact ⟨m.uopSlot_eq.trans hu, hw, fun hd ht => step_readDout hd (hw ht)⟩

/-- Settles O39: a rejection writes its code, an acceptance and a reset clear both fields, and no other move writes them. -/
theorem errorsAreSticky : Obligations.ErrorsAreSticky := by
  intro s t hu herr h
  cases step_move hu h with
  | quiet same _ _ noReject =>
    obtain ⟨_, _, _, _, _, _, _, _, herr', hcode⟩ := same
    exact .inl ⟨herr'.trans herr, .inr ⟨noReject, hcode⟩⟩
  | stage moves _ _ _ next =>
    have hkept : t.err = s.err ∧ t.errcode = s.errcode := by
      subst next
      split <;> exact ⟨rfl, rfl⟩
    exact .inl ⟨hkept.1.trans herr, .inr ⟨not_rejects_of_sequencerMoves moves, hkept.2⟩⟩
  | reject code _ _ rejects next => subst next; exact .inl ⟨rfl, .inl rejects⟩
  | accept _ _ _ accepts next => subst next; exact .inr ⟨.inl accepts, by simp, by simp⟩
  | reset _ resets next => subst next; exact .inr ⟨.inr resets, rfl, rfl⟩

/-- KEY, the words and DIR stay in every other move (R23, R24, R26). -/
theorem Move.keyMaterial_eq_or {s t : State} (m : Move s t) :
    (t.key = s.key ∧ t.w = s.w ∧ t.dir = s.dir) ∨ Accepts s ∨ HostResets s := by
  cases m with
  | quiet same _ _ _ =>
    obtain ⟨_, hkey, hw, hdir, _⟩ := same
    exact .inl ⟨hkey, hw, hdir⟩
  | stage _ _ _ _ next =>
    subst next
    split <;> exact .inl ⟨rfl, rfl, rfl⟩
  | reject _ _ _ _ next => subst next; exact .inl ⟨rfl, rfl, rfl⟩
  | accept _ _ _ accepts _ => exact .inr (.inl accepts)
  | reset _ resets _ => exact .inr (.inr resets)

/-- Settles O40, by `Move.keyMaterial_eq_or`. -/
theorem keyMaterialChangesOnlyAtAcceptance : Obligations.KeyMaterialChangesOnlyAtAcceptance := by
  intro s t hu h hne
  rcases (step_move hu h).keyMaterial_eq_or with ⟨hkey, hw, hdir⟩ | hcause
  · simp [hkey, hw, hdir] at hne
  · exact hcause

end Sys2Proof.Machine.Proofs
end

section
/-!
PROOFS. The family of the memory: port words and Blocks (20_memory.md R52, R53). A concatenation of two words is read as a
number once (`append_toNat`); `pack` is then taken apart byte by byte and nibble by nibble.
-/

namespace Sys2Proof.Machine.Proofs

/-- A concatenation as a number: the upper word counts in units of 2^n. -/
theorem append_toNat {m n : Nat} (hi : BitVec m) (lo : BitVec n) :
    (hi ++ lo).toNat = hi.toNat * 2 ^ n + lo.toNat := by
  rw [BitVec.toNat_append, ← Nat.shiftLeft_add_eq_or_of_lt lo.isLt, Nat.shiftLeft_eq]

/-- R53: the packed word as a number. -/
theorem pack_toNat (b : Block) :
    (pack b).toNat = b.c0.n0.toNat * 2 ^ 12 + b.c0.n1.toNat * 2 ^ 8 + b.c1.n0.toNat * 2 ^ 4 + b.c1.n1.toNat := by
  simp only [pack, append_toNat]
  omega

/-- The packed word is column 0's byte above column 1's. -/
theorem pack_eq_append_bytes (b : Block) : pack b = (b.c0.n0 ++ b.c0.n1 : Byte) ++ (b.c1.n0 ++ b.c1.n1 : Byte) :=
  BitVec.append_assoc

@[simp] theorem byte0_pack (b : Block) : byte0 (pack b) = b.c0.n0 ++ b.c0.n1 := by
  rw [pack_eq_append_bytes]
  exact BitVec.extractLsb'_append_eq_left

@[simp] theorem byte1_pack (b : Block) : byte1 (pack b) = b.c1.n0 ++ b.c1.n1 := by
  rw [pack_eq_append_bytes]
  exact BitVec.extractLsb'_append_eq_right

/-- R54: a port word is its byte 0 above its byte 1. -/
theorem byte0_append_byte1 (x : PortWord) : byte0 x ++ byte1 x = x :=
  BitVec.extractLsb'_append_extractLsb'

/-- R53: the adjacent fields that `unpack` reads join to the two bytes, and these to the whole word. -/
@[simp] theorem pack_unpack (x : PortWord) : pack (unpack x) = x := by
  have upper : x.extractLsb' 12 4 ++ x.extractLsb' 8 4 = byte0 x :=
    BitVec.extractLsb'_append_extractLsb'_eq_extractLsb' rfl
  have lower : x.extractLsb' 4 4 ++ x.extractLsb' 0 4 = byte1 x :=
    BitVec.extractLsb'_append_extractLsb'_eq_extractLsb' rfl
  calc pack (unpack x) = byte0 x ++ byte1 x :=
        (pack_eq_append_bytes (unpack x)).trans (congrArg₂ (· ++ ·) upper lower)
    _ = x := byte0_append_byte1 x

/-- `pack` loses nothing: the four nibbles are the digits of the number in base 16. -/
theorem pack_injective : Function.Injective pack := by
  rintro ⟨⟨a0, a1⟩, ⟨a2, a3⟩⟩ ⟨⟨b0, b1⟩, ⟨b2, b3⟩⟩ h
  have hnum := congrArg BitVec.toNat h
  simp only [pack_toNat] at hnum
  simp only [Block.mk.injEq, Column.mk.injEq]
  bv_omega

/-- R53: `unpack` is the inverse on the other side too, since `pack` is injective. -/
@[simp] theorem unpack_pack (b : Block) : unpack (pack b) = b :=
  pack_injective (pack_unpack (pack b))

/-- Settles O10: the fields are the definition of `unpack` (R52), the numbers are read off the concatenations, and the two
inverses are `pack_unpack` and `unpack_pack`. -/
theorem packIsTheInverseOfUnpack : Obligations.PackIsTheInverseOfUnpack := by
  refine ⟨fun _ => rfl, pack_toNat, fun b => ⟨?_, ?_⟩, pack_unpack, unpack_pack⟩
  · exact (congrArg BitVec.toNat (byte0_pack b)).trans (append_toNat _ _)
  · exact (congrArg BitVec.toNat (byte1_pack b)).trans (append_toNat _ _)

end Sys2Proof.Machine.Proofs
end

section
/-!
PROOFS. The family of the encoding: both decoders against the encoder (30_encoding.md R71 to R75), the reserved words of R79,
and the word that a step runs. A UOP word is read as its op above its idx (R73), and what the decoder answers to it is said
once (`decodeUop_answers`).
-/

namespace Sys2Proof.Machine.Proofs

open Sys2Proof.Machine.Laws

/-! ### The fields of a UOP word (R73) -/

@[simp] theorem uopOp_append (op idx : BitVec 4) : uopOp (op ++ idx) = op :=
  BitVec.extractLsb'_append_eq_left

@[simp] theorem uopIdx_append (op idx : BitVec 4) : uopIdx (op ++ idx) = idx :=
  BitVec.extractLsb'_append_eq_right

theorem uopOp_append_uopIdx (w : BitVec 8) : uopOp w ++ uopIdx w = w :=
  BitVec.extractLsb'_append_extractLsb'

theorem arkIndexOk_eq_false_iff {idx : BitVec 4} : arkIndexOk idx = false ↔ 5 ≤ idx.toNat := by
  simp only [arkIndexOk, decide_eq_false_iff_not]
  omega

theorem kwIndexOk_eq_false_iff {idx : BitVec 4} : kwIndexOk idx = false ↔ idx.toNat ≤ 1 ∨ 10 ≤ idx.toNat := by
  simp only [kwIndexOk, decide_eq_false_iff_not]
  omega

/-! ### What the UOP decoder answers (R74, R79) -/

/-- The ops of the micro-ops without an index: SUB, ISUB, SHR, MIX, IMIX and FIN. -/
abbrev plainOps : List (BitVec 4) := [0x1#4, 0x2#4, 0x3#4, 0x4#4, 0x5#4, 0x7#4]

/-- The reserved UOP words of R79. -/
abbrev Reserved (op idx : BitVec 4) : Prop :=
  8 ≤ op.toNat ∨ (op = 0x0#4 ∧ 5 ≤ idx.toNat) ∨ (op = 0x6#4 ∧ (idx.toNat ≤ 1 ∨ 10 ≤ idx.toNat)) ∨
  (op ∈ plainOps ∧ idx ≠ 0#4)

/-- An answer the decoder may give to the word of `op` and `idx`: the well-formed instruction whose encoding the word is, or,
exactly for a reserved word, a refusal. -/
inductive UopAnswer (op idx : BitVec 4) : Except DecodeError Instr → Prop where
  | legal {i : Instr} (notReserved : ¬ Reserved op idx) (wf : i.wf = true) (word : encode i = .uop (op ++ idx)) :
      UopAnswer op idx (.ok i)
  | refused {e : DecodeError} (reserved : Reserved op idx) : UopAnswer op idx (.error e)

theorem reserved_ark_iff {idx : BitVec 4} : Reserved 0x0#4 idx ↔ arkIndexOk idx = false := by
  simp [Reserved, arkIndexOk_eq_false_iff]

theorem reserved_kw_iff {idx : BitVec 4} : Reserved 0x6#4 idx ↔ kwIndexOk idx = false := by
  simp [Reserved, kwIndexOk_eq_false_iff]

theorem not_reserved_plain : ∀ op ∈ plainOps, ¬ Reserved op 0#4 := by decide

/-- The six ops without an index, at once. -/
theorem plainUop_answer {op : BitVec 4} {i : Instr} (hop : op ∈ plainOps) (hwf : i.wf = true)
    (hword : encode i = .uop (op ++ 0#4)) (idx : BitVec 4) : UopAnswer op idx (plainUop i (op ++ idx)) := by
  unfold plainUop
  rw [uopIdx_append]
  split
  · next h0 => subst h0; exact .legal (not_reserved_plain op hop) hwf hword
  · next h0 => exact .refused (.inr (.inr (.inr ⟨hop, h0⟩)))

/-- What the UOP decoder answers to each word, op by op. -/
theorem decodeUop_answer (op idx : BitVec 4) : UopAnswer op idx (decodeUop (op ++ idx)) := by
  unfold decodeUop
  rw [uopOp_append, uopIdx_append]
  split
  case isTrue hop =>
    subst hop
    cases hidx : arkIndexOk idx with
    | true => exact .legal (by simp [reserved_ark_iff, hidx]) hidx rfl
    | false => exact .refused (reserved_ark_iff.mpr hidx)
  iterate 5
    split
    case isTrue hop => subst hop; exact plainUop_answer (by decide) rfl rfl idx
  split
  case isTrue hop =>
    subst hop
    cases hidx : kwIndexOk idx with
    | true => exact .legal (by simp [reserved_kw_iff, hidx]) hidx rfl
    | false => exact .refused (reserved_kw_iff.mpr hidx)
  split
  case isTrue hop => subst hop; exact plainUop_answer (by decide) rfl rfl idx
  exact .refused (.inl (by bv_omega))

/-! ### Decoding and encoding undo each other (R71, R74) -/

theorem decodeUop_ark {idx : BitVec 4} (h : arkIndexOk idx = true) : decodeUop (0x0#4 ++ idx) = .ok (.ark idx) := by
  simp [decodeUop, h]

theorem decodeUop_kw {idx : BitVec 4} (h : kwIndexOk idx = true) : decodeUop (0x6#4 ++ idx) = .ok (.kw idx) := by
  simp [decodeUop, h]

/-- Settles O6: the words with an index by `decodeUop_ark` and `decodeUop_kw`, every other word by running the decoder. -/
theorem decodeEncodeAgree : Obligations.DecodeEncodeAgree := by
  intro i hwf
  cases i with
  | ark idx => exact decodeUop_ark hwf
  | kw idx => exact decodeUop_kw hwf
  | _ => rfl

theorem wf_and_encode_of_decodeUop {w : BitVec 8} {i : Instr} (h : decodeUop w = .ok i) :
    i.wf = true ∧ encode i = .uop w := by
  have answer := decodeUop_answer (uopOp w) (uopIdx w)
  rw [uopOp_append_uopIdx, h] at answer
  cases answer with
  | legal _ wf word => exact ⟨wf, word.trans (congrArg RawWord.uop (uopOp_append_uopIdx w))⟩

theorem wf_and_encode_decodeCmd : ∀ c : BitVec 2, (decodeCmd c).wf = true ∧ encode (decodeCmd c) = .cmd c := by
  decide

/-- Settles O7, format by format. -/
theorem decodedWordIsItsEncoding : Obligations.DecodedWordIsItsEncoding := by
  intro r i h
  cases r with
  | cmd c => cases h; exact wf_and_encode_decodeCmd c
  | uop w => exact wf_and_encode_of_decodeUop h

/-- Settles O5: each word is the encoding of its instruction, which decodes to it by O6. -/
theorem tableWordsDecode : Obligations.TableWordsDecode :=
  ⟨decodeEncodeAgree .nop rfl, decodeEncodeAgree .enc rfl, decodeEncodeAgree .dec rfl, decodeEncodeAgree .rsvdCmd rfl,
    decodeEncodeAgree (.ark 3#4) rfl, decodeEncodeAgree .sub rfl, decodeEncodeAgree .isub rfl,
    decodeEncodeAgree .shr rfl, decodeEncodeAgree .mix rfl, decodeEncodeAgree .imix rfl,
    decodeEncodeAgree (.kw 7#4) rfl, decodeEncodeAgree .fin rfl⟩

/-! ### Reserved words (R79) -/

theorem decodeUop_error_iff_reserved {op idx : BitVec 4} :
    (∃ e, decodeUop (op ++ idx) = .error e) ↔ Reserved op idx := by
  have answer := decodeUop_answer op idx
  generalize decodeUop (op ++ idx) = r at answer ⊢
  cases answer with
  | legal notReserved _ _ => exact ⟨nofun, fun reserved => absurd reserved notReserved⟩
  | refused reserved => exact ⟨fun _ => reserved, fun _ => ⟨_, rfl⟩⟩

theorem decodes_of_mem {ws : List (BitVec 8)} {is : List Instr} (h : ws.map decodeUop = is.map .ok) {w : BitVec 8}
    (hw : w ∈ ws) : ∃ i, decodeUop w = .ok i := by
  have hmem : decodeUop w ∈ is.map Except.ok := h ▸ List.mem_map_of_mem hw
  obtain ⟨i, _, hi⟩ := List.mem_map.mp hmem
  exact ⟨i, hi.symm⟩

/-- The control ROM holds no reserved word. -/
theorem decodes_of_mem_stageWords {d : BitVec 1} {g : BitVec 3} {ws : List (BitVec 8)} {w : BitVec 8}
    (hws : stageWords d g = some ws) (hw : w ∈ ws) : ∃ i, decodeUop w = .ok i := by
  by_cases hg : g.toNat ≤ 4
  · obtain ⟨ws', hws', hdec, _⟩ := stageWords_decode d g hg
    cases hws'.symm.trans hws
    exact decodes_of_mem hdec hw
  · simp [stageWords_none hg] at hws

theorem kxWords_decode : kxWords.map decodeUop =
    [Instr.kw 2#4, .kw 3#4, .kw 4#4, .kw 5#4, .kw 6#4, .kw 7#4, .kw 8#4, .kw 9#4].map .ok := rfl

/-- A sequencer's turn of a consistent machine does not stop: STG selects one of the five stages (R44 (c)). -/
theorem stageStep_completes {s : State} (hs : Consistent s) : ∃ t, stageStep s = .next t := by
  obtain ⟨_, _, hg, _⟩ := hs
  cases hb : s.busy with
  | false => exact ⟨_, stageStep_idle hb⟩
  | true =>
    cases hr : s.rst with
    | true => exact ⟨_, stageStep_held hr⟩
    | false => exact ⟨_, stageStep_next hb hr hg⟩

/-- Every command completes. -/
theorem exec_decodeCmd_completes (c : BitVec 2) (s : State) : ∃ t, exec (decodeCmd c) s = .next t := by
  rcases exec_decodeCmd c s with ⟨_, he⟩ | ⟨_, _, he⟩ | ⟨_, _, he⟩ | ⟨_, _, he⟩ <;> exact ⟨_, he⟩

/-- No host action is refused; the one stop is the fault of R183. -/
theorem hostAct_ne_refused (a : HostAction) (s : State) (r : Refusal) : hostAct a s ≠ .refused r := by
  cases a with
  | issue c x k =>
    simp only [hostAct, issue]
    obtain ⟨t, ht⟩ := exec_decodeCmd_completes c (s.drivePorts x k)
    split <;> simp [ht]
  | readDout =>
    simp only [hostAct, readDout]
    split <;> simp
  | _ => simp [hostAct]

/-- No step of a consistent machine is refused, unless a word was placed from outside (log 8). -/
theorem step_ne_refused {s : State} (hs : Consistent s) (hu : s.uopSlot = none) (r : Refusal) :
    step s ≠ .refused r := by
  rcases step_cases s with ⟨w, hw, _⟩ | ⟨_, h⟩ | ⟨a, _, h⟩ | ⟨_, _, _, h⟩
  · simp [hu] at hw
  · have hpop : Consistent s.popSched := hs
    obtain ⟨t, ht⟩ := stageStep_completes hpop
    simp [h, ht]
  · rw [h]
    exact hostAct_ne_refused a _ r
  · simp [h]

/-- Settles O8: the decoder by `decodeUop_answer`, the control ROM by its mnemonics, and the steps by `step_ne_refused`. -/
theorem reservedMicroOpsRefused : Obligations.ReservedMicroOpsRefused :=
  ⟨fun _ _ => decodeUop_error_iff_reserved, fun _ _ _ _ => decodes_of_mem_stageWords,
    fun _ => decodes_of_mem kxWords_decode, fun _ w hs hu => step_ne_refused hs hu (.reservedUop w)⟩

theorem runWord_of_refused {w : BitVec 8} {e : DecodeError} (h : decodeUop w = .error e) (s : State) :
    runWord w s = .refused (.reservedUop w) := by
  simp [runWord, h]

/-- Settles O9: the two index checks of `exec` are those of the decoder. -/
theorem reservedIndexRefused : Obligations.ReservedIndexRefused := by
  refine ⟨fun w s e h => runWord_of_refused h s, fun idx s h => ?_, fun idx s h => ?_⟩
  · simp [exec, execArk, arkIndexOk_eq_false_iff.mpr h]
  · simp [exec, execKw, kwIndexOk_eq_false_iff.mpr h]

/-! ### NOP, and the word that a step runs -/

/-- An issued NOP drives the ports and nothing else, sampled or not (R164, R221). -/
theorem hostAct_nop (x k : PortWord) (s : State) : hostAct (.issue 0b00#2 x k) s = .next (s.drivePorts x k) := by
  simp only [hostAct, issue]
  split <;> rfl

/-- Settles O23, by `hostAct_nop`: the ports and the host's place are no registers. -/
theorem nopChangesNothing : Obligations.NopChangesNothing := by
  refine ⟨rfl, fun s => ⟨rfl, fun x k hd => ?_⟩⟩
  exact ⟨_, (step_of_hostDoes hd).trans (hostAct_nop x k _), sameRegisters_refl s⟩

theorem withFetchWord_uop {w : Nat} (h4 : 4 ≤ w) (h256 : w < 256) (s : State) :
    s.withFetchWord 8 w = { s with rst := false, uopSlot := some (BitVec.ofNat 8 w) } := by
  have hword : tableWord 8 w = some (.uop (BitVec.ofNat 8 w)) := by
    simp [tableWord, h256, Nat.not_lt.mpr h4]
  simp only [State.withFetchWord, hword]

theorem withFetchWord_cmd {w : Nat} (h4 : w < 4) (s : State) :
    s.withFetchWord 8 w =
      { s with rst := false, uopSlot := none, sched := .host :: s.sched,
               host := { s.host with prog := [.issue (BitVec.ofNat 2 w) s.din s.kin], pc := 0 } } := by
  have hword : tableWord 8 w = some (.cmd (BitVec.ofNat 2 w)) := by
    simp [tableWord, h4]
  simp only [State.withFetchWord, hword]

theorem hostDoes_withFetchWord {w : Nat} (h4 : w < 4) (s : State) :
    HostDoes (.issue (BitVec.ofNat 2 w) s.din s.kin) (s.withFetchWord 8 w) := by
  rw [withFetchWord_cmd h4]
  exact ⟨rfl, rfl, rfl⟩

/-- Settles O30: a placed micro-op is run from the slot, and a placed command is the host's Issue of it. -/
theorem stepRunsThePlacedWord : Obligations.StepRunsThePlacedWord := by
  refine ⟨fun s w i h4 h256 hdec => ?_, fun s w h4 => ?_⟩
  · rw [withFetchWord_uop h4 h256, step_of_slot rfl]
    exact runWord_of_decode hdec _
  · rw [step_of_hostDoes (hostDoes_withFetchWord h4 s), withFetchWord_cmd h4]
    rfl

end Sys2Proof.Machine.Proofs
end

section
/-!
PROOFS. The family of the encoding, host programs: pseudo-instructions and their expansions (30_encoding.md R83). Labels and
assembled code are followed through a concatenation of programs; replacing a middle part by lines of the same size, the same
labels and the same code then changes nothing (`assemble_replace`).
-/

namespace Sys2Proof.Machine.Proofs

/-- How many host actions a program becomes. -/
def codeSize (p : List HostLine) : Nat := (p.map lineSize).sum

@[simp] theorem codeSize_nil : codeSize [] = 0 := rfl

@[simp] theorem codeSize_cons (h : HostLine) (p : List HostLine) : codeSize (h :: p) = lineSize h + codeSize p :=
  List.sum_cons

@[simp] theorem codeSize_append (p q : List HostLine) : codeSize (p ++ q) = codeSize p + codeSize q := by
  simp [codeSize]

/-! ### Labels -/

/-- A label defines itself; every other line is passed over. -/
theorem labelAt_cons (l base : Nat) (h : HostLine) (p : List HostLine) :
    labelAt l base (h :: p) = if h = .label l then some base else labelAt l (base + lineSize h) p := by
  cases h with
  | label m =>
    have hsize : lineSize (.label m) = 0 := rfl
    simp [labelAt, hsize]
  | _ => simp [labelAt]

theorem labelAt_eq_none {l : Nat} {p : List HostLine} (h : .label l ∉ p) (base : Nat) : labelAt l base p = none := by
  induction p generalizing base with
  | nil => rfl
  | cons a p ih =>
    rw [List.mem_cons, not_or] at h
    obtain ⟨ha, hp⟩ := h
    rw [labelAt_cons, if_neg (Ne.symm ha), ih hp]

/-- The first definition of a label counts. -/
theorem labelAt_append (l base : Nat) (p q : List HostLine) :
    labelAt l base (p ++ q) = (labelAt l base p).or (labelAt l (base + codeSize p) q) := by
  induction p generalizing base with
  | nil => rfl
  | cons a p ih =>
    rw [List.cons_append, labelAt_cons, labelAt_cons, codeSize_cons, ← Nat.add_assoc, ih]
    split <;> rfl

/-! ### Assembled code -/

theorem assembleFrom_cons (find : Nat → Option Nat) (base : Nat) (h : HostLine) (p : List HostLine) :
    assembleFrom find base (h :: p) =
      Option.map₂ (· ++ ·) (lineActions find base h) (assembleFrom find (base + lineSize h) p) := by
  rw [assembleFrom]
  cases lineActions find base h <;> cases assembleFrom find (base + lineSize h) p <;> rfl

theorem assembleFrom_append (find : Nat → Option Nat) (base : Nat) (p q : List HostLine) :
    assembleFrom find base (p ++ q) =
      Option.map₂ (· ++ ·) (assembleFrom find base p) (assembleFrom find (base + codeSize p) q) := by
  induction p generalizing base with
  | nil => simp [assembleFrom]
  | cons a p ih =>
    rw [List.cons_append, assembleFrom_cons, assembleFrom_cons, codeSize_cons, ← Nat.add_assoc, ih,
      Option.map₂_assoc List.append_assoc]

/-- Only a branch looks a label up. -/
theorem lineActions_congr {find find' : Nat → Option Nat} {h : HostLine}
    (hfind : ∀ c l, h = .branch c l → find l = find' l) (base : Nat) :
    lineActions find base h = lineActions find' base h := by
  cases h with
  | branch c l => simp only [lineActions, hfind c l rfl]
  | _ => rfl

theorem assembleFrom_congr {find find' : Nat → Option Nat} {p : List HostLine}
    (hfind : ∀ c l, .branch c l ∈ p → find l = find' l) (base : Nat) :
    assembleFrom find base p = assembleFrom find' base p := by
  induction p generalizing base with
  | nil => rfl
  | cons a p ih =>
    rw [assembleFrom_cons, assembleFrom_cons, lineActions_congr (fun c l ha => hfind c l (by simp [ha])),
      ih fun c l hl => hfind c l (List.mem_cons_of_mem _ hl)]

/-! ### Replacing a part of a program -/

section
variable {p q m e : List HostLine} (hsize : codeSize m = codeSize e)
include hsize

/-- A label that the two parts put at the same place stands for the same line in the two programs. -/
theorem labelAt_replace {l : Nat} (hlabel : ∀ base, labelAt l base m = labelAt l base e) :
    labelAt l 0 (p ++ m ++ q) = labelAt l 0 (p ++ e ++ q) := by
  simp only [labelAt_append, codeSize_append, hsize, hlabel]

/-- Parts of the same size and with the same code can stand for each other, if they agree on the labels that the rest of the
program branches to. -/
theorem assemble_replace (hlabel : ∀ c l, .branch c l ∈ p ++ q → ∀ base, labelAt l base m = labelAt l base e)
    (hcode : assembleFrom (fun l => labelAt l 0 (p ++ m ++ q)) (codeSize p) m =
      assembleFrom (fun l => labelAt l 0 (p ++ e ++ q)) (codeSize p) e) :
    assemble (p ++ m ++ q) = assemble (p ++ e ++ q) := by
  have hfind : ∀ c l, .branch c l ∈ p ++ q → labelAt l 0 (p ++ m ++ q) = labelAt l 0 (p ++ e ++ q) :=
    fun c l hl => labelAt_replace hsize (hlabel c l hl)
  have hp := assembleFrom_congr fun c l hl => hfind c l (List.mem_append_left q hl)
  have hq := assembleFrom_congr fun c l hl => hfind c l (List.mem_append_right p hl)
  simp only [assemble, assembleFrom_append _ _ _ q, assembleFrom_append _ _ p, codeSize_append, Nat.zero_add,
    hsize, hcode, hp, hq]

end

/-! ### The pseudo-instructions (R83) -/

/-- A fresh label stands for the line after the program before it. -/
theorem labelAt_fresh {p q : List HostLine} {l : Nat} (h : .label l ∉ p) :
    labelAt l 0 (p ++ .label l :: q) = some (codeSize p) := by
  rw [labelAt_append, labelAt_eq_none h, labelAt_cons]
  simp

/-- WAIT is a poll that branches back to itself, whatever fresh label its expansion gives that line. -/
theorem assemble_wait {p q : List HostLine} {l : Nat} (hlabel : .label l ∉ p) (hbranch : ∀ c, .branch c l ∉ p ++ q) :
    assemble (p ++ [.wait] ++ q) = assemble (p ++ [.label l, .readStatus, .branch .busy l] ++ q) := by
  refine assemble_replace rfl (fun c l' hl' base => ?_) ?_
  · have hne : l ≠ l' := by rintro rfl; exact hbranch c hl'
    rw [labelAt_eq_none (by simp), labelAt_eq_none (by simp [hne.symm])]
  · have hfind : labelAt l 0 (p ++ [.label l, .readStatus, .branch .busy l] ++ q) = some (codeSize p) := by
      rw [List.append_assoc]
      exact labelAt_fresh hlabel
    simp only [assembleFrom, lineActions, hfind]
    rfl

theorem assemble_runEnc (p q : List HostLine) (x k : PortWord) :
    assemble (p ++ [.runEnc x k] ++ q) = assemble (p ++ [.enc x k, .wait, .readDout] ++ q) :=
  assemble_replace rfl (fun _ _ _ _ => rfl) rfl

theorem assemble_runDec (p q : List HostLine) (x k : PortWord) :
    assemble (p ++ [.runDec x k] ++ q) = assemble (p ++ [.dec x k, .wait, .readDout] ++ q) :=
  assemble_replace rfl (fun _ _ _ _ => rfl) rfl

/-- Settles O50, by `assemble_replace` for each of the three. -/
theorem pseudoInstructionsExpand : Obligations.PseudoInstructionsExpand := by
  refine ⟨fun p q l fresh => ?_, fun p q x k => ⟨assemble_runEnc p q x k, assemble_runDec p q x k⟩⟩
  exact assemble_wait (fun hl => (fresh _ (List.mem_append_left q hl)).1 rfl) fun c hc => (fresh _ hc).2 c rfl

end Sys2Proof.Machine.Proofs
end

section
/-!
PROOFS. The family of the key schedule: the micro-op KW w<i> (40_key_schedule.md R105). `computeWord_word` says which word
register it writes; `keyStep_odd` and `keyStep_even` say what, nibble by nibble.
-/

namespace Sys2Proof.Machine.Proofs

open Sys2Proof.Machine.Laws

/-- R103. -/
theorem keyStep_odd (P : Params) {i : Nat} (hi : i % 2 = 1) (a b p q : Nibble) :
    keyStep P i ⟨a, b⟩ ⟨p, q⟩ = ⟨a ^^^ p, b ^^^ q⟩ := by
  rw [keyStep, if_pos hi, Column.xor]

/-- R104: the S-box takes `[q, p]`, and the round constant's second nibble is 0. -/
theorem keyStep_even (P : Params) {i : Nat} (hi : ¬ i % 2 = 1) (a b p q : Nibble) :
    keyStep P i ⟨a, b⟩ ⟨p, q⟩ = ⟨a ^^^ P.sbox q ^^^ BitVec.ofNat 4 (2 ^ (i / 2 - 1)), b ^^^ P.sbox p⟩ := by
  rw [keyStep, if_neg hi]
  simp [Column.xor, mapColumn, reverseColumn, roundConstant]

theorem computeWord_word_same (P : Params) (s : State) {i : Nat} (hi : i < 10) :
    (s.computeWord P i).word i = (s.word (i - 2)).map₂ (keyStep P i) (s.word (i - 1)) := by
  rw [computeWord_word P s i i hi, if_pos rfl]

theorem computeWord_word_of_ne (P : Params) (s : State) {i j : Nat} (hi : i < 10) (hj : j ≠ i) :
    (s.computeWord P i).word j = s.word j := by
  rw [computeWord_word P s i j hi, if_neg hj]

/-- Settles O17: KW is `computeWord`, and the word it writes is by the rule of the index's parity. -/
theorem kwComputesOneWord : Obligations.KwComputesOneWord := by
  intro s idx h2 h9
  have hi : idx.toNat < 10 := by omega
  refine ⟨rfl, s.computeWord Config.params idx.toNat, exec_kw_of_mem h2 h9 s, rfl,
    fun j hj => computeWord_word_of_ne _ s hi hj, fun a b p q hw2 hw1 => ?_⟩
  rw [computeWord_word_same _ s hi, hw2, hw1, map₂_holding]
  split
  · next hodd => rw [keyStep_odd _ hodd]
  · next heven => rw [keyStep_even _ heven]

end Sys2Proof.Machine.Proofs
end

section
/-!
PROOFS. The family of the round transforms (41_round_transforms.md). SUB, ISUB, SHR, MIX and IMIX are `State.transform` of a
function on Blocks, so completion and frame are said once (`exec_transform_completes`), and that one of them undoes another is
a fact about the two functions (`exec_transform_undone`). MIX is a matrix product over GF(2), from which its inverse and its
linearity follow.
-/

namespace Sys2Proof.Machine.Proofs

open Sys2Proof.Machine.Laws

/-! ### The micro-ops that transform ST -/

theorem exec_sub (s : State) : exec .sub s = .next (s.transform (subBytes Config.params)) := rfl

theorem exec_isub (s : State) : exec .isub s = .next (s.transform (subBytesInverse Config.params)) := rfl

theorem exec_shr (s : State) : exec .shr s = .next (s.transform shiftRows) := rfl

theorem exec_mix (s : State) : exec .mix s = .next (s.transform (mixColumns Config.params)) := rfl

theorem exec_imix (s : State) : exec .imix s = .next (s.transform (mixColumnsInverse Config.params)) := rfl

section
variable {i j : Instr} {f g : Block → Block} (hi : ∀ s, exec i s = .next (s.transform f))
include hi

/-- A round transform completes, writes ST alone, and takes a block `b` to `f b`. -/
theorem exec_transform_completes {Rel : Block → Block → Prop} (hf : ∀ b, Rel b (f b)) (s : State) :
    ∃ t, exec i s = .next t ∧ t = { s with st := t.st } ∧ ∀ b, s.st = .holding b → ∃ b', t.st = .holding b' ∧ Rel b b' := by
  refine ⟨s.transform f, hi s, rfl, fun b hb => ⟨f b, ?_, hf b⟩⟩
  rw [transform_st, hb, map_holding]

/-- A micro-op whose function inverts another's restores the whole state, ⊥ in ST included. -/
theorem exec_transform_undone (hj : ∀ s, exec j s = .next (s.transform g)) (hgf : ∀ b, g (f b) = b) (s : State) :
    ∃ t, exec i s = .next t ∧ exec j t = .next s := by
  refine ⟨s.transform f, hi s, ?_⟩
  calc exec j (s.transform f) = .next ((s.transform f).transform g) := hj _
    _ = .next (s.setSt ((s.st.map f).map g)) := rfl
    _ = .next (s.setSt s.st) := by rw [map_id_of_inverse hgf]
    _ = .next s := rfl

end

/-! ### SUB, ISUB and SHR (R120 to R126) -/

theorem mapCells_mapCells_of_inverse {f g : Nibble → Nibble} (h : ∀ x, g (f x) = x) (b : Block) :
    mapCells g (mapCells f b) = b := by
  simp [mapCells, mapColumn, h]

/-- Settles O11: SUB is `mapCells` of SBOX. -/
theorem subReplacesEachLane : Obligations.SubReplacesEachLane :=
  ⟨rfl, exec_transform_completes exec_sub fun b => cell_mapCells Config.params.sbox b⟩

/-- Settles O12: ISUB is `mapCells` of SBOX_INV, and SBOX_INV(x) = y says that SBOX(y) = x. -/
theorem isubReplacesEachLane : Obligations.IsubReplacesEachLane := by
  refine ⟨rfl, exec_transform_completes exec_isub fun b c r y => ?_⟩
  rw [subBytesInverse, cell_mapCells, Equiv.symm_apply_eq, eq_comm]

/-- Settles O19, lane by lane. -/
theorem subAndIsubUndoEachOther : Obligations.SubAndIsubUndoEachOther := fun s =>
  ⟨exec_transform_undone exec_sub exec_isub (mapCells_mapCells_of_inverse Config.params.sbox.symm_apply_apply) s,
    exec_transform_undone exec_isub exec_sub (mapCells_mapCells_of_inverse Config.params.sbox.apply_symm_apply) s⟩

theorem shiftRows_shiftRows (b : Block) : shiftRows (shiftRows b) = b := rfl

/-- R125's word form. -/
theorem pack_shiftRows_unpack (x : PortWord) :
    pack (shiftRows (unpack x)) = x.extractLsb' 12 4 ++ x.extractLsb' 0 4 ++ x.extractLsb' 4 4 ++ x.extractLsb' 8 4 := rfl

/-- Settles O13: the cells by the definition of `shiftRows`, the word by `pack_shiftRows_unpack`. -/
theorem shrPermutesTheNibbles : Obligations.ShrPermutesTheNibbles := by
  refine ⟨rfl, fun s => ⟨s.transform shiftRows, exec_shr s, rfl, fun a b c d h => ?_, fun x h => ?_⟩⟩
  · rw [transform_st, h, map_holding, shiftRows]
  · rw [transform_st, h, map_holding, holding_val, pack_shiftRows_unpack]

/-! ### ARK (R136, R137) -/

theorem pack_xor (a b : Block) : pack (a.xor b) = pack a ^^^ pack b := by
  simp only [pack, block_xor_c0, block_xor_c1, column_xor_n0, column_xor_n1, ← BitVec.xor_append]

theorem roundKey_of_words {s : State} {i : Nat} {w0 w1 : Column} (h0 : s.word (2 * i) = .holding w0)
    (h1 : s.word (2 * i + 1) = .holding w1) : s.roundKey i = .holding ⟨w0, w1⟩ := by
  rw [State.roundKey, h0, h1, map₂_holding]

/-- Settles O16: ARK is `addKey`, whose exclusive or `pack_xor` carries over to words. -/
theorem arkXorsTheRoundKey : Obligations.ArkXorsTheRoundKey := by
  intro s idx hidx
  refine ⟨rfl, s.addKey idx.toNat, exec_ark_of_le hidx s, rfl, fun b w0 w1 hb h0 h1 => ⟨b.xor ⟨w0, w1⟩, ?_, pack_xor _ _⟩⟩
  rw [addKey_st, roundKey_of_words h0 h1, hb, map₂_holding, addRoundKey]

theorem column_xor_xor_cancel (c k : Column) : (c.xor k).xor k = c := by
  apply column_ext <;> simp

theorem addRoundKey_addRoundKey (k b : Block) : addRoundKey k (addRoundKey k b) = b :=
  block_ext (column_xor_xor_cancel b.c0 k.c0) (column_xor_xor_cancel b.c1 k.c1)

/-- With the round key written, adding it twice restores the whole state, ⊥ in ST included: ARK writes no word register. -/
theorem addKey_addKey {s : State} {i : Nat} (hk : (s.roundKey i).written = true) : (s.addKey i).addKey i = s := by
  have hst : (s.roundKey i).map₂ addRoundKey ((s.roundKey i).map₂ addRoundKey s.st) = s.st := by
    simp [Reg.map₂, hk, addRoundKey_addRoundKey]
  calc (s.addKey i).addKey i = s.setSt (((s.addKey i).roundKey i).map₂ addRoundKey (s.addKey i).st) := rfl
    _ = s.setSt s.st := by rw [roundKey_congr (addKey_w s i), addKey_st, hst]
    _ = s := rfl

theorem shr_mem_decStages : ∀ n, n < 4 → .shr ∈ stageInstrs 1#1 n := by decide

/-- Settles O20, by `shiftRows_shiftRows`, the mnemonics of R153, and `addKey_addKey`. -/
theorem shrAndArkAreInvolutions : Obligations.ShrAndArkAreInvolutions := by
  refine ⟨exec_transform_undone exec_shr exec_shr shiftRows_shiftRows, shr_mem_decStages, fun s idx hidx hk => ?_⟩
  refine ⟨s.addKey idx.toNat, exec_ark_of_le hidx s, ?_⟩
  rw [exec_ark_of_le hidx, addKey_addKey hk]

/-! ### MIX and IMIX (R130 to R134) -/

/-- Settles O14: `mixcol` is the product with the matrix, for each column. -/
theorem mixMultipliesEachColumn : Obligations.MixMultipliesEachColumn :=
  ⟨rfl, exec_transform_completes exec_mix fun b => ⟨gf2Vec_mixcol _ b.c0, gf2Vec_mixcol _ b.c1⟩⟩

/-- Settles O15: likewise, with the inverse matrix. -/
theorem imixMultipliesEachColumn : Obligations.ImixMultipliesEachColumn :=
  ⟨rfl, exec_transform_completes exec_imix fun b => ⟨gf2Vec_mixcol _ b.c0, gf2Vec_mixcol _ b.c1⟩⟩

theorem mixcol_mixcol_of_mul_eq_one {M N : Matrix (Fin 8) (Fin 8) (ZMod 2)} (h : M * N = 1) (c : Column) :
    mixcol N (mixcol M c) = c := by
  apply column_eq_of_gf2Vec
  rw [gf2Vec_mixcol, gf2Vec_mixcol, Matrix.vecMul_vecMul, h, Matrix.vecMul_one]

theorem mapColumns_mapColumns_of_inverse {f g : Column → Column} (h : ∀ c, g (f c) = c) (b : Block) :
    mapColumns g (mapColumns f b) = b :=
  block_ext (h b.c0) (h b.c1)

theorem mixColumnsInverse_mixColumns (P : Params) (b : Block) : mixColumnsInverse P (mixColumns P b) = b :=
  mapColumns_mapColumns_of_inverse (mixcol_mixcol_of_mul_eq_one P.mixT.val_inv) b

theorem mixColumns_mixColumnsInverse (P : Params) (b : Block) : mixColumns P (mixColumnsInverse P b) = b :=
  mapColumns_mapColumns_of_inverse (mixcol_mixcol_of_mul_eq_one P.mixT.inv_val) b

/-- Settles O21: the product of MIX_T and MIX_TINV is the unit matrix, in both orders. -/
theorem mixAndImixUndoEachOther : Obligations.MixAndImixUndoEachOther := fun s =>
  ⟨exec_transform_undone exec_mix exec_imix (mixColumnsInverse_mixColumns _) s,
    exec_transform_undone exec_imix exec_mix (mixColumns_mixColumnsInverse _) s⟩

/-! ### `mixcol` is linear (R133) -/

theorem gf2Vec_xor (a b : Column) : gf2Vec (a.xor b) = gf2Vec a + gf2Vec b := by
  funext i
  simp [gf2Vec, vec_xor]

theorem gf2Vec_zeroColumn : gf2Vec zeroColumn = 0 := by
  funext i
  revert i
  decide

theorem gf2Vec_rowColumn (M : Matrix (Fin 8) (Fin 8) (ZMod 2)) (i : Fin 8) : gf2Vec (rowColumn M i) = M i := by
  funext j
  simp [gf2Vec, rowColumn]

/-- One step of R133's exclusive or over the rows: row `i` joins it if the input vector selects it. -/
def xorRowIf (M : Matrix (Fin 8) (Fin 8) (ZMod 2)) (c acc : Column) (i : Fin 8) : Column :=
  if vec c i then acc.xor (rowColumn M i) else acc

/-- Over GF(2) the selecting bit is the row's coefficient. -/
theorem gf2Vec_xorRowIf (M : Matrix (Fin 8) (Fin 8) (ZMod 2)) (c acc : Column) (i : Fin 8) :
    gf2Vec (xorRowIf M c acc i) = gf2Vec acc + gf2Vec c i • M i := by
  have hbit : gf2Vec c i = bitToGf2 (vec c i) := rfl
  cases hi : vec c i with
  | false => simp [xorRowIf, hbit, hi, bitToGf2]
  | true => simp [xorRowIf, hbit, hi, bitToGf2, gf2Vec_xor, gf2Vec_rowColumn]

theorem gf2Vec_foldl_xorRowIf (M : Matrix (Fin 8) (Fin 8) (ZMod 2)) (c : Column) (l : List (Fin 8)) (acc : Column) :
    gf2Vec (l.foldl (xorRowIf M c) acc) = gf2Vec acc + (l.map fun i => gf2Vec c i • M i).sum := by
  induction l generalizing acc with
  | nil => simp
  | cons i l ih => rw [List.foldl_cons, ih, gf2Vec_xorRowIf, List.map_cons, List.sum_cons, add_assoc]

/-- The vector times the matrix is the sum of its rows, each with its coefficient. -/
theorem mixcol_eq_foldl_xorRowIf (M : Matrix (Fin 8) (Fin 8) (ZMod 2)) (c : Column) :
    mixcol M c = (List.finRange 8).foldl (xorRowIf M c) zeroColumn := by
  apply column_eq_of_gf2Vec
  rw [gf2Vec_mixcol, gf2Vec_foldl_xorRowIf, gf2Vec_zeroColumn, zero_add, ← Fin.sum_univ_def, Matrix.vecMul_eq_sum]

/-- Settles O22, each clause as the fact about the row vector times the matrix. -/
theorem mixcolIsLinear : Obligations.MixcolIsLinear := by
  refine fun M => ⟨fun c d => column_eq_of_gf2Vec ?_, column_eq_of_gf2Vec ?_, mixcol_eq_foldl_xorRowIf M⟩
  · simp only [gf2Vec_mixcol, gf2Vec_xor, Matrix.add_vecMul]
  · rw [gf2Vec_mixcol, gf2Vec_zeroColumn, Matrix.zero_vecMul]

end Sys2Proof.Machine.Proofs
end

section
/-!
PROOFS. The family of the round sequencer (42_round_sequencer.md R150 to R168). A stage that the sequencer can run is one of two
state functions (`middleStage`, `finalStage`); an operation in flight stays so under the first and has its result after the
second. The steps of R162 and the runs of five stages both follow from these two facts. The last two parts are about the pure
schedules: each round undoes its inverse, and a MIX in the final round is undone only if MIX_T is the unit matrix.
-/

namespace Sys2Proof.Machine.Proofs

open Sys2Proof.Machine.Laws

/-! ### FIN (R161) -/

theorem exec_fin (s : State) : exec .fin s = .next s.finish := rfl

/-- FIN ends the last stage of both programs, and no other stage holds it. -/
theorem fin_mem_stageInstrs_iff (d : BitVec 1) (n : Nat) : .fin ∈ stageInstrs d n ↔ n = 4 := by
  unfold stageInstrs
  split <;> split <;> simp_all

/-- Settles O18: FIN is `State.finish`. -/
theorem finPublishesTheResult : Obligations.FinPublishesTheResult := by
  refine ⟨rfl, fin_mem_stageInstrs_iff, fun s => ⟨s.finish, exec_fin s, rfl, fun b hb => ?_⟩⟩
  rw [finish_dout, hb, map_holding]

/-! ### Acceptance (R155) -/

theorem startCommand_idle {s : State} (d : BitVec 1) (hb : s.busy = false) :
    startCommand d s = .next (s.accept Config.params d) := by
  simp [startCommand, hb]

/-- Settles O24: both commands are `State.accept`, with its frame and its words. -/
theorem acceptanceLatchesAndExpands : Obligations.AcceptanceLatchesAndExpands := by
  intro s i d hi hb
  have hexec : exec i s = .next (s.accept Config.params d) := by
    rcases hi with ⟨rfl, rfl⟩ | ⟨rfl, rfl⟩ <;> exact startCommand_idle _ hb
  refine ⟨s.accept Config.params d, hexec, ?_, accept_st _ d s, accept_key _ d s, fun j hj => accept_word _ d s hj⟩
  rw [accept_st, accept_key]
  exact accept_frame _ d s

theorem inFlight_accept (d : BitVec 1) {s : State} (hr : s.rst = false) :
    InFlight d s.din s.kin (s.accept Config.params d) := by
  refine ⟨accept_busy _ d s, accept_done _ d s, accept_dir _ d s, ?_, (accept_rst _ d s).trans hr, accept_key _ d s,
    fun i hi => accept_word _ d s hi, ?_⟩
  · simp
  · simp [afterStages]

/-- The step in which the engine accepts an issued ENC or DEC. -/
theorem step_of_accepted {c : BitVec 2} {x k : PortWord} {s : State} (hd : HostDoes (.issue c x k) s)
    (hc : c = 0b01#2 ∨ c = 0b10#2) (hb : s.busy = false) (hr : s.rst = false) :
    step s = .next (((advanceHost s.popSched).drivePorts x k).accept Config.params (if c = 0b10#2 then 1#1 else 0#1)) := by
  have hissue : step s = exec (decodeCmd c) ((advanceHost s.popSched).drivePorts x k) := by
    rw [step_of_hostDoes hd]
    simp [hostAct, issue, hr]
  rw [hissue]
  rcases hc with rfl | rfl <;> exact startCommand_idle _ hb

/-! ### A stage that the sequencer can run (R158) -/

/-- The sequencer has a stage to run: BUSY = 1, RST is not asserted, and STG selects a stage. -/
structure Runs (s : State) : Prop where
  busy : s.busy = true
  released : s.rst = false
  bound : s.stg.toNat ≤ 4

/-- The state after a stage other than S4. -/
def middleStage (s : State) : State := (s.setSt (stageBlock s s.dir s.stg.toNat)).nextStage

/-- The state after stage S4, which FIN ends. -/
def finalStage (s : State) : State := (s.setSt (stageBlock s s.dir 4)).finish

@[simp] theorem middleStage_busy (s : State) : (middleStage s).busy = s.busy := rfl
@[simp] theorem middleStage_dir (s : State) : (middleStage s).dir = s.dir := rfl
@[simp] theorem middleStage_stg (s : State) : (middleStage s).stg = s.stg + 1#3 := rfl
@[simp] theorem finalStage_busy (s : State) : (finalStage s).busy = false := rfl
@[simp] theorem finalStage_dir (s : State) : (finalStage s).dir = s.dir := rfl
@[simp] theorem finalStage_stg (s : State) : (finalStage s).stg = 0#3 := rfl

theorem stageStep_middle {s : State} (h : Runs s) (h4 : s.stg ≠ 4#3) : stageStep s = .next (middleStage s) := by
  rw [stageStep_next h.busy h.released h.bound, if_neg h4, middleStage]

theorem stageStep_final {s : State} (h : Runs s) (h4 : s.stg = 4#3) : stageStep s = .next (finalStage s) := by
  rw [stageStep_next h.busy h.released h.bound, if_pos h4, finalStage]

/-- STG does not wrap before S4. -/
theorem stg_succ_toNat {g : BitVec 3} (hg : g.toNat ≤ 4) (h4 : g ≠ 4#3) : (g + 1#3).toNat = g.toNat + 1 ∧ g.toNat + 1 ≤ 4 := by
  revert g
  decide

theorem middleStage_stg_toNat {s : State} (h : Runs s) (h4 : s.stg ≠ 4#3) : (middleStage s).stg.toNat = s.stg.toNat + 1 :=
  (stg_succ_toNat h.bound h4).1

theorem Runs.middleStage {s : State} (h : Runs s) (h4 : s.stg ≠ 4#3) : Runs (middleStage s) := by
  obtain ⟨hcount, hle⟩ := stg_succ_toNat h.bound h4
  exact ⟨h.busy, h.released, hcount.trans_le hle⟩

/-- Settles O29: the stage's micro-ops write ST, and FIN's registers in S4, which is what the step answers. -/
theorem stepRunsTheStage : Obligations.StepRunsTheStage := by
  intro s hm hr
  rw [step_of_sequencerMoves hm]
  refine ⟨fun hb hg => ⟨_, execAll_stage s.popSched s.dir hg, ?_⟩, fun hb => stageStep_idle hb⟩
  have hruns : Runs s.popSched := ⟨hb, hr, hg⟩
  by_cases h4 : s.stg = 4#3
  · have hn : s.stg.toNat = 4 := congrArg BitVec.toNat h4
    rw [stageStep_final hruns h4, if_pos h4, if_pos hn, hn]
    rfl
  · have hne : s.stg.toNat ≠ 4 := fun e => h4 (BitVec.eq_of_toNat_eq e)
    rw [stageStep_middle hruns h4, if_neg h4, if_neg hne]
    rfl

/-- Settles O46: whether there is a stage to run, and what it does to BUSY, DIR and STG, is read off those and RST. -/
theorem controlIgnoresData : Obligations.ControlIgnoresData := by
  intro s₁ s₂ t₁ hbusy hdir hstg hrst h
  rcases stageStep_inv h with ⟨hidle, rfl⟩ | ⟨hb, hr, hg, _⟩
  · have hstay : stageStep s₂ = .next s₂ := by
      rcases hidle with hb | hr
      · exact stageStep_idle (hbusy ▸ hb)
      · exact stageStep_held (hrst ▸ hr)
    exact ⟨s₂, hstay, hbusy, hdir, hstg⟩
  · have hruns₁ : Runs s₁ := ⟨hb, hr, hg⟩
    have hruns₂ : Runs s₂ := ⟨hbusy ▸ hb, hrst ▸ hr, hstg ▸ hg⟩
    by_cases h4 : s₁.stg = 4#3
    · cases (stageStep_final hruns₁ h4).symm.trans h
      exact ⟨finalStage s₂, stageStep_final hruns₂ (hstg ▸ h4), by simp [hdir]⟩
    · cases (stageStep_middle hruns₁ h4).symm.trans h
      exact ⟨middleStage s₂, stageStep_middle hruns₂ (hstg ▸ h4), by simp [hbusy, hdir, hstg]⟩

/-! ### Runs of stages (R152, R160) -/

theorem stageTurns_cons {n : Nat} {s t : State} (h : stageStep s = .next t) :
    stageTurns (n + 1) s = stageTurns n t := by
  simp [stageTurns, h]

theorem stageTurns_concat {n : Nat} {s t : State} (h : stageTurns n s = .next t) :
    stageTurns (n + 1) s = stageStep t := by
  induction n generalizing s with
  | zero =>
    cases h
    cases ht : stageStep t <;> simp [stageTurns, ht]
  | succ n ih =>
    cases hs : stageStep s with
    | next u => rw [stageTurns_cons hs] at h ⊢; exact ih h
    | fault f => simp [stageTurns, hs] at h
    | refused r => simp [stageTurns, hs] at h

section
variable {Inv : State → Prop} (hInv : ∀ s, Runs s → s.stg ≠ 4#3 → Inv s → Inv (middleStage s))
include hInv

/-- Up to S4 the stages only count, and keep what each of them keeps. -/
theorem stageTurns_middle {n : Nat} {s : State} (h : Runs s) (hs : Inv s) (hn : s.stg.toNat + n ≤ 4) :
    ∃ u, stageTurns n s = .next u ∧ Runs u ∧ u.stg.toNat = s.stg.toNat + n ∧ Inv u := by
  induction n generalizing s with
  | zero => exact ⟨s, rfl, h, rfl, hs⟩
  | succ n ih =>
    have h4 : s.stg ≠ 4#3 := by
      intro e
      simp [e] at hn
    have hcount := middleStage_stg_toNat h h4
    obtain ⟨u, hu, hruns, hstg, hinv⟩ := ih (h.middleStage h4) (hInv s h h4 hs) (by omega)
    exact ⟨u, (stageTurns_cons (stageStep_middle h h4)).trans hu, hruns, by omega, hinv⟩

/-- The stages from STG to S4: the last is run in a state that has what the others keep. -/
theorem stageTurns_final {s : State} (h : Runs s) (hs : Inv s) :
    ∃ u, stageTurns (5 - s.stg.toNat) s = .next (finalStage u) ∧ u.stg = 4#3 ∧ Inv u := by
  have hbound := h.bound
  obtain ⟨u, hu, hruns, hstg, hinv⟩ := stageTurns_middle hInv (n := 4 - s.stg.toNat) h hs (by omega)
  have h4 : u.stg = 4#3 := BitVec.eq_of_toNat_eq (by rw [hstg]; simp; omega)
  have hlen : 5 - s.stg.toNat = 4 - s.stg.toNat + 1 := by omega
  exact ⟨u, by rw [hlen, stageTurns_concat hu, stageStep_final hruns h4], h4, hinv⟩

end

/-- What no stage but S4 writes: DOUT, ERR and ERRCODE. -/
abbrev SameOutput (s u : State) : Prop := u.dout = s.dout ∧ u.err = s.err ∧ u.errcode = s.errcode

/-- Settles O45, by the counting of the stages before S4 and the effect of FIN. -/
theorem fiveStagesPerCommand : Obligations.FiveStagesPerCommand := by
  intro s hb hr hg
  have hruns : Runs s := ⟨hb, hr, hg⟩
  have hkeep : ∀ u, Runs u → u.stg ≠ 4#3 → SameOutput s u → SameOutput s (middleStage u) := fun _ _ _ h => h
  constructor
  · intro n hn
    obtain ⟨u, hu, hrunsu, hstg, hout, _⟩ := stageTurns_middle hkeep (n := n) hruns ⟨rfl, rfl, rfl⟩ (by omega)
    exact ⟨u, hu, hrunsu.busy, hstg, hout⟩
  · obtain ⟨u, hu, _, _, herr, hcode⟩ := stageTurns_final hkeep hruns ⟨rfl, rfl, rfl⟩
    exact ⟨finalStage u, hu, rfl, rfl, rfl, herr, hcode⟩

/-! ### The operation in flight (R162) -/

/-- The five stages in a row are the schedule of the direction (R151, R154). -/
theorem pack_afterStages_five (d : BitVec 1) (x k : PortWord) :
    pack (afterStages Config.params d (unpack k) (unpack x) 5) = resultWord d x k := by
  unfold resultWord
  split
  · next hd => subst hd; rfl
  · next hd => simp only [afterStages, hd, if_false]; rfl

/-- The registers that the operation in flight rests on: all but DOUT, ERR and ERRCODE. -/
abbrev SameOperation (s t : State) : Prop :=
  t.st = s.st ∧ t.key = s.key ∧ t.w = s.w ∧ t.dir = s.dir ∧ t.stg = s.stg ∧ t.busy = s.busy ∧ t.done = s.done

theorem sameOperation_of_sameRegisters {s t : State} (same : SameRegisters s t) : SameOperation s t := by
  obtain ⟨hst, hkey, hw, hdir, hstg, _, hbusy, hdone, _⟩ := same
  exact ⟨hst, hkey, hw, hdir, hstg, hbusy, hdone⟩

/-- A rejected Issue touches no part of the running operation (R202). -/
theorem sameOperation_reject (code : BitVec 2) (x k : PortWord) (s : State) :
    SameOperation s (((advanceHost s.popSched).drivePorts x k).reject code) := by
  simp [SameOperation]

section
variable {d : BitVec 1} {x k : PortWord} {s : State} (h : InFlight d x k s)
include h

theorem runs_of_inFlight : Runs s := by
  obtain ⟨hbusy, _, _, hstg, hrst, _⟩ := h
  exact ⟨hbusy, hrst, hstg⟩

theorem inFlight_of_sameOperation {t : State} (same : SameOperation s t) (hrst : t.rst = false) : InFlight d x k t := by
  obtain ⟨hst, hkey, hw, hdir, hstg, hbusy, hdone⟩ := same
  simpa only [InFlight, hst, hkey, word_congr hw, hdir, hstg, hbusy, hdone, hrst, (runs_of_inFlight h).released] using h

/-- One more stage of the schedule. -/
theorem stageBlock_of_inFlight :
    stageBlock s s.dir s.stg.toNat =
      Reg.holding (afterStages Config.params d (unpack k) (unpack x) (s.stg.toNat + 1)) := by
  obtain ⟨_, _, rfl, hg, _, _, hw, hst⟩ := h
  rw [stageBlock_eq hst hw s.dir hg, afterStages]

theorem inFlight_middleStage (h4 : s.stg ≠ 4#3) : InFlight d x k (middleStage s) := by
  have hblock := stageBlock_of_inFlight h
  have hruns := (runs_of_inFlight h).middleStage h4
  have hcount := middleStage_stg_toNat (runs_of_inFlight h) h4
  obtain ⟨_, hdone, hdir, _, _, hkey, hw, _⟩ := h
  refine ⟨hruns.busy, hdone, hdir, hruns.bound, hruns.released, hkey, hw, ?_⟩
  rw [hcount]
  exact hblock

/-- FIN publishes Enc(x, k) or Dec(x, k). -/
theorem finalStage_dout (h4 : s.stg = 4#3) : (finalStage s).dout = Reg.holding (resultWord d x k) := by
  have hblock := stageBlock_of_inFlight h
  have hn : s.stg.toNat = 4 := congrArg BitVec.toNat h4
  rw [hn] at hblock
  rw [finalStage, finish_dout, setSt_st, hblock, map_holding, pack_afterStages_five]

/-- The operation of `x` under `k` in flight, or just completed with its result. -/
theorem Move.inFlight_or_completed {t : State} (m : Move s t) (hreset : ¬ HostResets s) :
    InFlight d x k t ∨
      (t.busy = false ∧ t.done = true ∧ t.stg = 0#3 ∧ t.dout = .holding (resultWord d x k) ∧
       t.err = s.err ∧ t.errcode = s.errcode) := by
  cases m with
  | quiet same _ line _ =>
    have hrst : t.rst = false := line.elim (·.trans (runs_of_inFlight h).released) id
    exact .inl (inFlight_of_sameOperation h (sameOperation_of_sameRegisters same) hrst)
  | stage _ _ _ _ next =>
    have hpop : InFlight d x k s.popSched := h
    split at next
    · next h4 =>
      subst next
      exact .inr ⟨rfl, rfl, rfl, finalStage_dout hpop h4, rfl, rfl⟩
    · next h4 =>
      subst next
      exact .inl (inFlight_middleStage hpop h4)
  | reject code y l _ next =>
    subst next
    exact .inl (inFlight_of_sameOperation h (sameOperation_reject code y l s) (by simp [(runs_of_inFlight h).released]))
  | accept _ _ _ accepts _ =>
    obtain ⟨_, _, _, _, _, hidle, _⟩ := accepts
    simp [(runs_of_inFlight h).busy] at hidle
  | reset _ resets _ => exact absurd resets hreset

end

/-- Settles O42: an acceptance starts the operation, and every move keeps or completes it. -/
theorem runningOperationReachesItsResult : Obligations.RunningOperationReachesItsResult := by
  refine ⟨fun s c x k hd hc hb hr => ⟨_, step_of_accepted hd hc hb hr, inFlight_accept _ hr⟩,
    fun d x k s t h hu hreset hstep => ?_⟩
  have m := step_move hu hstep
  exact ⟨m.uopSlot_eq.trans hu, m.inFlight_or_completed h hreset⟩

/-- Settles O43: of the moves that an idle engine has, a rejection writes ERR and ERRCODE only. -/
theorem resultStaysUntilTheNextAcceptance : Obligations.ResultStaysUntilTheNextAcceptance := by
  intro s t hu hb hdone hacc hreset hstep
  have m := step_move hu hstep
  refine ⟨m.uopSlot_eq.trans hu, ?_⟩
  cases m with
  | quiet same _ _ _ =>
    obtain ⟨_, _, _, _, _, hdout, hbusy, hdone', _⟩ := same
    exact ⟨hbusy.trans hb, hdone'.trans hdone, hdout⟩
  | stage _ busy _ _ _ => simp [hb] at busy
  | reject _ _ _ _ next => subst next; simp [hb, hdone]
  | accept _ _ _ accepts _ => exact absurd accepts hacc
  | reset _ resets _ => exact absurd resets hreset

/-- An accepted operation, run for its five stages, has its result in DOUT and STATUS 0x02 (R168). -/
theorem stageTurns_accept {s : State} (d : BitVec 1) (hr : s.rst = false) :
    ∃ t, stageTurns 5 (s.accept Config.params d) = .next t ∧ t.dout = .holding (resultWord d s.din s.kin) ∧
      t.status = 0x02#8 := by
  have hkeep : ∀ u, Runs u → u.stg ≠ 4#3 → InFlight d s.din s.kin u ∧ u.err = false ∧ u.errcode = 0#2 →
      InFlight d s.din s.kin (middleStage u) ∧ (middleStage u).err = false ∧ (middleStage u).errcode = 0#2 :=
    fun u _ h4 ⟨hfl, herr, hcode⟩ => ⟨inFlight_middleStage hfl h4, herr, hcode⟩
  have hstart := inFlight_accept d hr
  obtain ⟨u, hu, h4, hfl, herr, hcode⟩ := stageTurns_final hkeep (runs_of_inFlight hstart)
    ⟨hstart, accept_err Config.params d s, accept_errcode Config.params d s⟩
  rw [accept_stg] at hu
  exact ⟨finalStage u, hu, finalStage_dout hfl h4,
    status_eq_iff (t := { State.reset with done := true }) |>.mpr ⟨rfl, rfl, herr, hcode⟩⟩

/-- Settles O44, each direction by `stageTurns_accept`. -/
theorem commandsComputeTheCipher : Obligations.CommandsComputeTheCipher := by
  intro s hb hr
  obtain ⟨t, ht, hdout, hstatus⟩ := stageTurns_accept (s := s) 0#1 hr
  obtain ⟨t', ht', hdout', hstatus'⟩ := stageTurns_accept (s := s) 1#1 hr
  exact ⟨⟨_, t, startCommand_idle 0#1 hb, ht, hdout, hstatus⟩, ⟨_, t', startCommand_idle 1#1 hb, ht', hdout', hstatus'⟩⟩

/-! ### The round trip (R165) -/

section
variable (P : Params) (key : Block)

@[simp] theorem subBytesInverse_subBytes (b : Block) : subBytesInverse P (subBytes P b) = b :=
  mapCells_mapCells_of_inverse P.sbox.symm_apply_apply b

@[simp] theorem subBytes_subBytesInverse (b : Block) : subBytes P (subBytesInverse P b) = b :=
  mapCells_mapCells_of_inverse P.sbox.apply_symm_apply b

@[simp] theorem roundFnInverse_roundFn (i : Nat) (b : Block) : roundFnInverse P key i (roundFn P key i b) = b := by
  simp [roundFn, roundFnInverse, addRoundKey_addRoundKey, mixColumnsInverse_mixColumns, shiftRows_shiftRows]

@[simp] theorem roundFn_roundFnInverse (i : Nat) (b : Block) : roundFn P key i (roundFnInverse P key i b) = b := by
  simp [roundFn, roundFnInverse, addRoundKey_addRoundKey, mixColumns_mixColumnsInverse, shiftRows_shiftRows]

@[simp] theorem finalRoundInverse_finalRound (b : Block) : finalRoundInverse P key (finalRound P key b) = b := by
  simp [finalRound, finalRoundInverse, addRoundKey_addRoundKey, shiftRows_shiftRows]

@[simp] theorem finalRound_finalRoundInverse (b : Block) : finalRound P key (finalRoundInverse P key b) = b := by
  simp [finalRound, finalRoundInverse, addRoundKey_addRoundKey, shiftRows_shiftRows]

@[simp] theorem decBlock_encBlock (b : Block) : decBlock P key (encBlock P key b) = b := by
  simp [encBlock, decBlock, addRoundKey_addRoundKey]

@[simp] theorem encBlock_decBlock (b : Block) : encBlock P key (decBlock P key b) = b := by
  simp [encBlock, decBlock, addRoundKey_addRoundKey]

theorem decBlock_eq_iff {b c : Block} : decBlock P key c = b ↔ c = encBlock P key b := by
  constructor
  · rintro rfl
    rw [encBlock_decBlock]
  · rintro rfl
    exact decBlock_encBlock P key b

end

/-- Settles O48: the two schedules undo each other on Blocks, and `pack` loses nothing. -/
theorem roundTrip : Obligations.RoundTrip := fun P x k =>
  ⟨by simp [decWord, encWord], by simp [decWord, encWord]⟩

/-! ### A MIX in the final round (R166) -/

/-- Only the unit matrix mixes no column. -/
theorem mixcol_eq_self_iff {M : Matrix (Fin 8) (Fin 8) (ZMod 2)} : (∀ c, mixcol M c = c) ↔ M = 1 := by
  constructor
  · intro h
    funext i
    have hrow := gf2Vec_mixcol M (rowColumn 1 i)
    rw [h, gf2Vec_rowColumn, ← Matrix.mul_apply_eq_vecMul, Matrix.one_mul] at hrow
    exact hrow.symm
  · rintro rfl c
    apply column_eq_of_gf2Vec
    rw [gf2Vec_mixcol, Matrix.vecMul_one]

theorem mixColumns_eq_self_iff {P : Params} : (∀ b, mixColumns P b = b) ↔ P.mixT = 1 := by
  have hcols : (∀ b, mixColumns P b = b) ↔ ∀ c, mixcol P.mixT.val c = c :=
    ⟨fun h c => congrArg Block.c0 (h ⟨c, c⟩), fun h b => block_ext (h b.c0) (h b.c1)⟩
  rw [hcols, mixcol_eq_self_iff, Units.val_eq_one]

/-- Enc' is Enc with a MIX between the final round's shift and its key. -/
theorem encBlockInjected_eq (P : Params) (key b : Block) :
    encBlockInjected P key b =
      addRoundKey (roundKeyOf P key 4) (mixColumns P (addRoundKey (roundKeyOf P key 4) (encBlock P key b))) := by
  rw [encBlock, finalRound, addRoundKey_addRoundKey, encBlockInjected]

theorem addRoundKey_eq_iff {key b c : Block} : addRoundKey key b = c ↔ b = addRoundKey key c := by
  constructor
  · rintro rfl
    exact (addRoundKey_addRoundKey key b).symm
  · rintro rfl
    exact addRoundKey_addRoundKey key c

/-- Settles O49: Dec takes Enc' of a block back exactly when Enc' and Enc agree there, which is when MIX leaves the block that
enters the last key addition as it is; and every block enters it. -/
theorem mixInTheFinalRoundBreaksRoundTrip : Obligations.MixInTheFinalRoundBreaksRoundTrip := by
  intro P key
  rw [← mixColumns_eq_self_iff]
  have hpoint : ∀ b, decBlock P key (encBlockInjected P key b) = b ↔
      mixColumns P (addRoundKey (roundKeyOf P key 4) (encBlock P key b)) =
        addRoundKey (roundKeyOf P key 4) (encBlock P key b) := fun b => by
    rw [decBlock_eq_iff, encBlockInjected_eq, addRoundKey_eq_iff]
  refine ⟨fun h b => ?_, fun h b => (hpoint b).mpr (h _)⟩
  have hb := (hpoint _).mp (h (decBlock P key (addRoundKey (roundKeyOf P key 4) b)))
  rwa [encBlock_decBlock, addRoundKey_addRoundKey] at hb

end Sys2Proof.Machine.Proofs
end

section
/-!
PROOFS. The family of the host interface (43_host_interface.md R181 to R191): what the engine answers to each host action, which
steps stop, how long a running command can last, and what a byte-level call returns. A running command is followed by one
measure (`pendingMoves`); a byte-level call is its acceptance, five stages, and four host actions that read the result back.
-/

namespace Sys2Proof.Machine.Proofs

open Sys2Proof.Machine.Laws

/-! ### Issue (R181) -/

/-- A sampled Issue is the command it decodes to, with the ports driven. -/
theorem issue_of_released (c : BitVec 2) (x k : PortWord) {s : State} (hr : s.rst = false) :
    issue c x k s = exec (decodeCmd c) (s.drivePorts x k) := by
  simp [issue, hr]

/-- Every command but NOP is rejected while BUSY = 1 (R202). -/
theorem exec_decodeCmd_busy {c : BitVec 2} {s : State} (hc : c ≠ 0b00#2) (hb : s.busy = true) :
    exec (decodeCmd c) s = .next (s.reject eBusy) := by
  rcases exec_decodeCmd c s with ⟨hnop, _⟩ | ⟨_, _, he⟩ | ⟨_, hidle, _⟩ | ⟨_, hidle, _⟩
  · exact absurd hnop hc
  · exact he
  all_goals simp [hb] at hidle

theorem exec_rsvdCmd_idle {s : State} (hb : s.busy = false) : exec .rsvdCmd s = .next (s.reject eRsvdCmd) := by
  simp [exec, execRsvdCmd, hb]

theorem exec_decodeCmd_accept {c : BitVec 2} {s : State} (hc : c = 0b01#2 ∨ c = 0b10#2) (hb : s.busy = false) :
    exec (decodeCmd c) s = .next (s.accept Config.params (if c = 0b10#2 then 1#1 else 0#1)) := by
  rcases hc with rfl | rfl <;> exact startCommand_idle _ hb

/-- Settles O27: a sampled Issue is its command, case by case. -/
theorem issueAnswersByPriority : Obligations.IssueAnswersByPriority := by
  intro s c x k hr
  rw [issue_of_released c x k hr]
  refine ⟨?_, fun hc hb => exec_decodeCmd_busy hc hb, ?_, fun hc hb => ⟨_, exec_decodeCmd_accept hc hb, ?_, ?_⟩⟩
  · rintro rfl
    rfl
  · rintro rfl hb
    exact exec_rsvdCmd_idle (s := s.drivePorts x k) hb
  · rw [accept_st, accept_key, accept_dir]
    exact accept_frame _ _ (s.drivePorts x k)
  · exact inFlight_accept (s := s.drivePorts x k) _ hr

/-- Settles O28, by `issue_of_released`. -/
theorem stepRunsTheIssuedCommand : Obligations.StepRunsTheIssuedCommand := by
  intro s c x k hd hr
  rw [step_of_hostDoes hd]
  exact issue_of_released c x k (s := advanceHost s.popSched) hr

/-! ### Reads and ports (R182, R183, R226) -/

/-- Settles O32: both actions complete and write no register. -/
theorem hostReadsAndPortChangesHaveNoEffect : Obligations.HostReadsAndPortChangesHaveNoEffect := fun s =>
  ⟨fun hd => ⟨_, step_of_hostDoes hd, sameRegisters_refl s, rfl⟩,
    fun _ _ hd => ⟨_, step_of_hostDoes hd, sameRegisters_refl s, rfl, rfl⟩⟩

theorem readDout_of_written {s : State} (hw : s.dout.written = true) :
    readDout s = .next (s.setHost { s.host with lastDout := some s.dout.val }) := by
  simp [readDout, hw]

theorem readDout_of_unwritten {s : State} (hw : s.dout.written = false) : readDout s = .fault .doutUnwritten := by
  simp [readDout, hw]

/-- Settles O33: the read looks at the mark of DOUT alone. -/
theorem readDoutReturnsDoutOrFaults : Obligations.ReadDoutReturnsDoutOrFaults := by
  intro s hd
  refine ⟨fun v hv => ⟨_, (step_of_hostDoes hd).trans (readDout_of_written ?_), sameRegisters_refl s, ?_⟩, fun hw => ?_⟩
  · simp [hv]
  · simp [hv, State.setHost]
  · exact (step_of_hostDoes hd).trans (readDout_of_unwritten hw)

/-! ### Steps that stop, and steps that change nothing (R186, R187) -/

/-- A host action completes, or it reads an unwritten DOUT. -/
theorem hostAct_completes_or_faults (a : HostAction) (s : State) :
    (∃ t, hostAct a s = .next t) ∨
    (a = .readDout ∧ s.dout.written = false ∧ hostAct a s = .fault .doutUnwritten) := by
  cases a with
  | issue c x k =>
    cases hr : s.rst with
    | true => exact .inl ⟨s.drivePorts x k, by simp [hostAct, issue, hr]⟩
    | false =>
      obtain ⟨t, ht⟩ := exec_decodeCmd_completes c (s.drivePorts x k)
      exact .inl ⟨t, (issue_of_released c x k hr).trans ht⟩
  | readDout =>
    cases hw : s.dout.written with
    | true => exact .inl ⟨_, readDout_of_written hw⟩
    | false => exact .inr ⟨rfl, rfl, readDout_of_unwritten hw⟩
  | _ => exact .inl ⟨_, rfl⟩

/-- Settles O34: a stage completes by R44 (c), and of the host's actions only that read stops. -/
theorem onlyTheUnwrittenReadStops : Obligations.OnlyTheUnwrittenReadStops := by
  intro s hs hu
  rcases step_cases s with ⟨w, hw, _⟩ | ⟨_, h⟩ | ⟨a, hd, h⟩ | ⟨_, _, _, h⟩
  · simp [hu] at hw
  · have hpop : Consistent s.popSched := hs
    rw [h]
    exact .inl (stageStep_completes hpop)
  · rcases hostAct_completes_or_faults a (advanceHost s.popSched) with ⟨t, ht⟩ | ⟨rfl, hw, hfault⟩
    · exact .inl ⟨t, h.trans ht⟩
    · exact .inr ⟨h.trans hfault, hd, hw⟩
  · exact .inl ⟨_, h⟩

/-- Settles O41: neither agent has a step, so the turn passes. -/
theorem quiescentMachineStays : Obligations.QuiescentMachineStays := by
  intro s hu hb hl
  rcases step_cases s with ⟨w, hw, _⟩ | ⟨_, h⟩ | ⟨a, ⟨_, _, hline⟩, _⟩ | ⟨_, _, _, h⟩
  · simp [hu] at hw
  · exact h.trans (stageStep_idle hb)
  · simp [hl] at hline
  · exact h

/-! ### A running command ends (R184) -/

theorem stepMany_cons {n : Nat} {s t : State} (h : step s = .next t) : stepMany (n + 1) s = stepMany n t := by
  simp [stepMany, h]

theorem stepMany_cons_fault {n : Nat} {s : State} {f : Fault} (h : step s = .fault f) :
    stepMany (n + 1) s = .fault f := by
  simp [stepMany, h]

theorem exec_decodeCmd_sched {c : BitVec 2} {s t : State} (h : exec (decodeCmd c) s = .next t) :
    t.sched = s.sched := by
  rcases exec_decodeCmd c s with ⟨_, he⟩ | ⟨_, _, he⟩ | ⟨_, _, he⟩ | ⟨_, _, he⟩ <;> cases he.symm.trans h <;> simp

theorem hostAct_sched {a : HostAction} {s t : State} (h : hostAct a s = .next t) : t.sched = s.sched := by
  rcases hostAct_next h with ⟨_, _, _, _, _, he⟩ | ⟨_, rfl⟩ | ⟨_, _, hsched, _⟩
  · exact (exec_decodeCmd_sched he).trans (drivePorts_sched s _ _)
  · rfl
  · exact hsched

theorem stageStep_sched {s t : State} (h : stageStep s = .next t) : t.sched = s.sched := by
  rcases stageStep_inv h with ⟨_, rfl⟩ | ⟨_, _, _, rfl⟩
  · rfl
  · split <;> rfl

/-- Every step uses up one turn of the order of moves. -/
theorem step_sched {s t : State} (hu : s.uopSlot = none) (h : step s = .next t) : t.sched = s.sched.tail := by
  rcases step_cases s with ⟨w, hw, _⟩ | ⟨_, hs⟩ | ⟨a, _, hs⟩ | ⟨_, _, _, hs⟩
  · simp [hu] at hw
  · exact stageStep_sched (hs.symm.trans h)
  · exact hostAct_sched (hs.symm.trans h)
  · cases hs.symm.trans h
    rfl

theorem runs_popSched {s : State} (h : Runs s) : Runs s.popSched := ⟨h.busy, h.released, h.bound⟩

/-- A move of a machine with a command running ends the command, or leaves it running at no earlier stage. -/
theorem Move.idle_or_runs {s t : State} (m : Move s t) (hruns : Runs s) :
    t.busy = false ∨ (Runs t ∧ s.stg.toNat ≤ t.stg.toNat) := by
  cases m with
  | quiet same _ line _ =>
    obtain ⟨_, _, _, _, hstg, _, hbusy, _⟩ := same
    have hrst : t.rst = false := line.elim (·.trans hruns.released) id
    exact .inr ⟨⟨hbusy.trans hruns.busy, hrst, hstg ▸ hruns.bound⟩, hstg ▸ le_rfl⟩
  | stage _ _ _ _ next =>
    split at next
    · subst next
      exact .inl rfl
    · next h4 =>
      subst next
      have hpop := runs_popSched hruns
      exact .inr ⟨hpop.middleStage h4, Nat.le.intro (middleStage_stg_toNat hpop h4).symm⟩
  | reject _ _ _ _ next =>
    subst next
    exact .inr ⟨⟨hruns.busy, hruns.released, hruns.bound⟩, le_rfl⟩
  | accept _ _ _ accepts _ =>
    obtain ⟨_, _, _, _, _, hidle, _⟩ := accepts
    simp [hruns.busy] at hidle
  | reset _ _ next =>
    subst next
    exact .inl rfl

/-- How many steps a running command has left at most: the turns still ordered, and the stages still to run. -/
def pendingMoves (s : State) : Nat := s.sched.length + (5 - s.stg.toNat)

theorem popSched_of_sched_nil {s : State} (hl : s.sched = []) : s.popSched = s := by
  cases s
  cases hl
  rfl

/-- When the order of moves is used up, the sequencer moves while a command is running (log 7). -/
theorem step_of_runs_of_sched_nil {s : State} (hruns : Runs s) (hu : s.uopSlot = none) (hl : s.sched = []) :
    step s = stageStep s := by
  have hmoves : SequencerMoves s := ⟨hu, by simp [nextAgent, hl, hruns.busy, hruns.released]⟩
  rw [step_of_sequencerMoves hmoves, popSched_of_sched_nil hl]

/-- Each step of a running command stops at the fault of R186, ends the command, or brings its end nearer: by a turn while turns
are ordered, by a stage when there are none left. -/
theorem step_of_runs {s : State} (hs : Consistent s) (hu : s.uopSlot = none) (hruns : Runs s) :
    step s = .fault .doutUnwritten ∨
    ∃ t, step s = .next t ∧ (t.busy = false ∨ (Runs t ∧ pendingMoves t < pendingMoves s)) := by
  cases hl : s.sched with
  | nil =>
    rw [step_of_runs_of_sched_nil hruns hu hl]
    by_cases h4 : s.stg = 4#3
    · exact .inr ⟨_, stageStep_final hruns h4, .inl rfl⟩
    · have hcount := middleStage_stg_toNat hruns h4
      have hbound := hruns.bound
      have hsched : (middleStage s).sched = s.sched := rfl
      refine .inr ⟨_, stageStep_middle hruns h4, .inr ⟨hruns.middleStage h4, ?_⟩⟩
      simp only [pendingMoves, hcount, hsched]
      omega
  | cons a l =>
    rcases onlyTheUnwrittenReadStops s hs hu with ⟨t, ht⟩ | ⟨hfault, _⟩
    · have hsched := step_sched hu ht
      refine .inr ⟨t, ht, ((step_move hu ht).idle_or_runs hruns).imp_right fun ⟨hrunst, hstg⟩ => ⟨hrunst, ?_⟩⟩
      simp only [pendingMoves, hsched, hl, List.tail_cons, List.length_cons]
      omega
    · exact .inl hfault

/-- `n` steps bring BUSY to 0, or stop at the host's read of an unwritten DOUT. -/
def EndsAfter (n : Nat) (s : State) : Prop :=
  (∃ t, stepMany n s = .next t ∧ t.busy = false) ∨ stepMany n s = .fault .doutUnwritten

theorem endsAfter_cons {n : Nat} {s t : State} (h : step s = .next t) (ht : EndsAfter n t) : EndsAfter (n + 1) s := by
  rwa [EndsAfter, stepMany_cons h]

/-- A running command ends within its pending moves. -/
theorem endsAfter_of_pendingMoves_le {m : Nat} {s : State} (hs : Consistent s) (hu : s.uopSlot = none) (hruns : Runs s)
    (hm : pendingMoves s ≤ m) : ∃ n ≤ m, EndsAfter n s := by
  induction m generalizing s with
  | zero =>
    have hbound := hruns.bound
    unfold pendingMoves at hm
    omega
  | succ m ih =>
    rcases step_of_runs hs hu hruns with hfault | ⟨t, ht, hidle | ⟨hrunst, hless⟩⟩
    · exact ⟨1, by omega, .inr (stepMany_cons_fault hfault)⟩
    · exact ⟨1, by omega, .inl ⟨t, stepMany_cons ht, hidle⟩⟩
    · have hslot : t.uopSlot = none := (step_move hu ht).uopSlot_eq.trans hu
      obtain ⟨n, hn, hends⟩ := ih (everyStepKeepsConsistent s t hs ht) hslot hrunst (by omega)
      exact ⟨n + 1, by omega, endsAfter_cons ht hends⟩

/-- Settles O47: the pending moves are at most the order of moves and five stages. -/
theorem everyCommandEnds : Obligations.EveryCommandEnds := by
  intro s hs hu hb hr
  have hg : s.stg.toNat ≤ 4 := by
    obtain ⟨_, _, hg, _⟩ := hs
    exact hg
  exact endsAfter_of_pendingMoves_le hs hu ⟨hb, hr, hg⟩ (by unfold pendingMoves; omega)

/-! ### The byte-level calls (R188, R189) -/

theorem stepMany_add {m n : Nat} {s t : State} (h : stepMany m s = .next t) : stepMany (m + n) s = stepMany n t := by
  induction m generalizing s with
  | zero =>
    cases h
    rw [Nat.zero_add]
  | succ m ih =>
    rw [Nat.add_right_comm]
    cases hs : step s with
    | next u =>
      rw [stepMany_cons hs] at h ⊢
      exact ih h
    | fault f => simp [stepMany, hs] at h
    | refused r => simp [stepMany, hs] at h

/-- With no order of moves set, the steps of a running command are its stages. -/
theorem stepMany_eq_stageTurns {n : Nat} {s : State} (hruns : Runs s) (hu : s.uopSlot = none) (hl : s.sched = [])
    (hn : s.stg.toNat + n ≤ 5) : stepMany n s = stageTurns n s := by
  induction n generalizing s with
  | zero => rfl
  | succ n ih =>
    have hstep := step_of_runs_of_sched_nil hruns hu hl
    by_cases h4 : s.stg = 4#3
    · obtain rfl : n = 0 := by
        simp only [h4, BitVec.toNat_ofNat] at hn
        omega
      have hfinal := stageStep_final hruns h4
      rw [stageTurns_cons hfinal, stepMany_cons (hstep.trans hfinal)]
      rfl
    · have hmiddle := stageStep_middle hruns h4
      have hcount := middleStage_stg_toNat hruns h4
      rw [stageTurns_cons hmiddle, stepMany_cons (hstep.trans hmiddle)]
      exact ih (hruns.middleStage h4) hu hl (by omega)

/-- The engine is idle, with no word placed and no order of moves set, so that the host moves next. -/
structure HostMovesNext (s : State) : Prop where
  idle : s.busy = false
  slot : s.uopSlot = none
  turns : s.sched = []

theorem HostMovesNext.hostDoes {s : State} (h : HostMovesNext s) {a : HostAction} (hline : nextLine s = some a) :
    HostDoes a s :=
  ⟨h.slot, by simp [nextAgent, h.idle, h.turns], hline⟩

theorem HostMovesNext.setHost {s : State} (h : HostMovesNext s) (g : HostAgent) : HostMovesNext (s.setHost g) :=
  ⟨h.idle, h.slot, h.turns⟩

/-- An operation just accepted, left alone for five steps, has its result in DOUT; the host stands where it stood. -/
theorem stepMany_inFlight {d : BitVec 1} {x k : PortWord} {s : State} (h : InFlight d x k s) (hg : s.stg = 0#3)
    (hu : s.uopSlot = none) (hl : s.sched = []) :
    ∃ t, stepMany 5 s = .next t ∧ HostMovesNext t ∧ t.host = s.host ∧ t.dout = .holding (resultWord d x k) := by
  have hkeep : ∀ u, Runs u → u.stg ≠ 4#3 → InFlight d x k u ∧ u.uopSlot = none ∧ u.sched = [] ∧ u.host = s.host →
      InFlight d x k (middleStage u) ∧ (middleStage u).uopSlot = none ∧ (middleStage u).sched = [] ∧
        (middleStage u).host = s.host :=
    fun u _ h4 ⟨hfl, hrest⟩ => ⟨inFlight_middleStage hfl h4, hrest⟩
  have hruns := runs_of_inFlight h
  obtain ⟨u, hu', h4, hfl, hslot, hsched, hhost⟩ := stageTurns_final hkeep hruns ⟨h, hu, hl, rfl⟩
  rw [hg] at hu'
  exact ⟨finalStage u, (stepMany_eq_stageTurns hruns hu hl (by simp [hg])).trans hu', ⟨rfl, hslot, hsched⟩, hhost,
    finalStage_dout hfl h4⟩

/-- The host actions of a byte-level call: the command, the poll of STATUS, the read, and the return (R83, R188). -/
def callActions (c : BitVec 2) (x k : PortWord) : List HostAction :=
  [.issue c x k, .readStatus, .branch .busy 1, .readDout, .returnBytes]

theorem assemble_encrypt (b0 b1 k0 k1 : Byte) :
    assemble [.encrypt [b0, b1] [k0, k1]] = some (callActions 0b01#2 (b0 ++ b1) (k0 ++ k1)) := rfl

theorem assemble_decrypt (b0 b1 k0 k1 : Byte) :
    assemble [.decrypt [b0, b1] [k0, k1]] = some (callActions 0b10#2 (b0 ++ b1) (k0 ++ k1)) := rfl

theorem branch_of_not_holds {c : Cond} {n : Nat} {s : State} {v : Byte} (hv : s.host.lastStatus = some v)
    (hc : c.holds v = false) : branch c n s = s := by
  simp [branch, hv, hc]

section
variable {s : State} (h : HostMovesNext s)
include h

/-- The host takes its next line, whatever it has made of what it remembers. -/
theorem step_setHost {g : HostAgent} {a : HostAction} (hline : g.prog[g.pc]? = some a) :
    step (s.setHost g) = hostAct a (s.setHost { g with pc := g.pc + 1 }) := by
  have hnext := h.setHost g
  rw [step_of_hostDoes (hnext.hostDoes hline), popSched_of_sched_nil hnext.turns]
  rfl

section
variable {g : HostAgent}

theorem step_setHost_readStatus (hline : g.prog[g.pc]? = some .readStatus) :
    step (s.setHost g) = .next (s.setHost { g with pc := g.pc + 1, lastStatus := some s.status }) :=
  (step_setHost h hline).trans rfl

/-- A poll that has read BUSY = 0 is not repeated. -/
theorem step_setHost_poll {n : Nat} (hline : g.prog[g.pc]? = some (.branch .busy n))
    (hstatus : g.lastStatus = some s.status) : step (s.setHost g) = .next (s.setHost { g with pc := g.pc + 1 }) := by
  obtain ⟨_, _, _, _, hbusy⟩ := status_fields s
  exact (step_setHost h hline).trans (congrArg _ (branch_of_not_holds (c := .busy) hstatus (hbusy.trans h.idle)))

theorem step_setHost_readDout {r : PortWord} (hline : g.prog[g.pc]? = some .readDout) (hdout : s.dout = .holding r) :
    step (s.setHost g) = .next (s.setHost { g with pc := g.pc + 1, lastDout := some r }) := by
  obtain rfl : s.dout.val = r := congrArg Reg.val hdout
  exact (step_setHost h hline).trans (readDout_of_written (congrArg Reg.written hdout))

theorem step_setHost_returnBytes {r : PortWord} (hline : g.prog[g.pc]? = some .returnBytes) (hdata : g.lastDout = some r) :
    step (s.setHost g) =
      .next (s.setHost { g with pc := g.pc + 1, results := g.results ++ [.bytes (byte0 r) (byte1 r)] }) := by
  rw [step_setHost h hline]
  simp [hostAct, returnBytes, State.setHost, hdata]

end

/-- The end of a byte-level call, once the operation has ended: the poll sees BUSY = 0, and the value read from DOUT is returned
in bytes. -/
theorem stepMany_readBack {r : PortWord} (hdout : s.dout = .holding r) (c : BitVec 2) (x k : PortWord)
    (status : Option Byte) (data : Option PortWord) (results : List CallResult) :
    stepMany 4 (s.setHost ⟨callActions c x k, 1, status, data, results⟩) =
      .next (s.setHost ⟨callActions c x k, 5, some s.status, some r, results ++ [.bytes (byte0 r) (byte1 r)]⟩) :=
  (stepMany_cons (step_setHost_readStatus h rfl)).trans <|
    (stepMany_cons (step_setHost_poll h rfl rfl)).trans <|
      (stepMany_cons (step_setHost_readDout h rfl hdout)).trans <|
        stepMany_cons (step_setHost_returnBytes h rfl rfl)

end

/-- A byte-level call of either direction, from the command to the bytes it returns. -/
theorem stepMany_call {s : State} (h : HostMovesNext s) (hr : s.rst = false) {c : BitVec 2} {x k : PortWord}
    (hc : c = 0b01#2 ∨ c = 0b10#2) (hprog : s.host.prog = callActions c x k) (hpc : s.host.pc = 0) {r : PortWord}
    (hresult : resultWord (if c = 0b10#2 then 1#1 else 0#1) x k = r) :
    ∃ t, stepMany 10 s = .next t ∧ t.busy = false ∧ nextLine t = none ∧
      t.host.results = s.host.results ++ [.bytes (byte0 r) (byte1 r)] := by
  have hd : HostDoes (.issue c x k) s := h.hostDoes (by simp [nextLine, hprog, hpc, callActions])
  have hflight := inFlight_accept (if c = 0b10#2 then 1#1 else 0#1) (s := (advanceHost s.popSched).drivePorts x k) hr
  obtain ⟨t, ht, hnext, hhost, hdout⟩ := stepMany_inFlight hflight (by simp) (by simp [h.slot]) (by simp [h.turns])
  have hhost' : t.host = ⟨callActions c x k, 1, s.host.lastStatus, s.host.lastDout, s.host.results⟩ := by
    simp [hhost, hprog, hpc]
  have hrun : stepMany 10 s = stepMany 4 (t.setHost t.host) :=
    (stepMany_cons (step_of_accepted hd hc h.idle hr)).trans (stepMany_add (n := 4) ht)
  rw [hrun, hhost', stepMany_readBack hnext (hresult ▸ hdout)]
  exact ⟨_, rfl, hnext.idle, rfl, rfl⟩

/-- Settles O52, each direction by `stepMany_call`. -/
theorem byteCallsReturnTheCipherBytes : Obligations.ByteCallsReturnTheCipherBytes := by
  intro s b0 b1 k0 k1 l r hl hb hr hu hsched hprog hpc
  have hnext : HostMovesNext s := ⟨hb, hu, hsched⟩
  rcases hl with ⟨rfl, hcipher⟩ | ⟨rfl, hcipher⟩
  · rw [assemble_encrypt, Option.some.injEq] at hprog
    exact stepMany_call hnext hr (.inl rfl) hprog.symm hpc (by simp [resultWord, hcipher])
  · rw [assemble_decrypt, Option.some.injEq] at hprog
    exact stepMany_call hnext hr (.inr rfl) hprog.symm hpc (by simp [resultWord, hcipher])

end Sys2Proof.Machine.Proofs
end

section
/-!
PROOFS. The family of the exceptions (60_exceptions.md R201 to R203): the two rejected commands, and the byte-level call whose
buffers have a wrong length. Both rejections are one step (`step_of_rejects`), whichever of the two codes it sets.
-/

namespace Sys2Proof.Machine.Proofs

open Sys2Proof.Machine.Laws

/-! ### Rejected commands (R201, R202) -/

/-- A rejected Issue drives the ports and sets ERR and ERRCODE. -/
theorem step_of_rejects {code : BitVec 2} {s : State} (h : Rejects code s) :
    ∃ x k, step s = .next (((advanceHost s.popSched).drivePorts x k).reject code) := by
  obtain ⟨c, x, k, hd, hr, hcase⟩ := h
  refine ⟨x, k, (stepRunsTheIssuedCommand s c x k hd hr).trans ?_⟩
  rcases hcase with ⟨hc, hb, rfl⟩ | ⟨rfl, hb, rfl⟩
  · exact exec_decodeCmd_busy hc hb
  · exact exec_rsvdCmd_idle hb

/-- ERR and ERRCODE are the only registers of a rejection, and an operation in flight goes on. -/
theorem rejects_frame {code : BitVec 2} {s : State} (h : Rejects code s) :
    ∃ t, step s = .next t ∧ SameRegisters (s.reject code) t ∧ ∀ d y l, InFlight d y l s → InFlight d y l t := by
  obtain ⟨x, k, hstep⟩ := step_of_rejects h
  exact ⟨_, hstep, sameRegisters_refl (s.reject code), fun d y l hfl =>
    inFlight_of_sameOperation hfl (sameOperation_reject code x k s) (runs_of_inFlight hfl).released⟩

/-- Settles O25: ENC, DEC and the reserved command are the commands other than NOP, which BUSY = 1 rejects. -/
theorem commandWhileBusyIsRejected : Obligations.CommandWhileBusyIsRejected := by
  refine ⟨fun s i hi hb => ?_, fun s c x k hc hd hr hb => rejects_frame ⟨c, x, k, hd, hr, .inl ⟨hc, hb, rfl⟩⟩⟩
  rcases hi with rfl | rfl | rfl
  · exact exec_decodeCmd_busy (c := 0b01#2) (by decide) hb
  · exact exec_decodeCmd_busy (c := 0b10#2) (by decide) hb
  · exact exec_decodeCmd_busy (c := 0b11#2) (by decide) hb

/-- Settles O26: its Issue is the rejection with code 1. -/
theorem reservedCommandWhenIdle : Obligations.ReservedCommandWhenIdle := by
  refine ⟨fun s hb => exec_rsvdCmd_idle hb, fun s x k hd hr hb => ?_⟩
  obtain ⟨t, hstep, same, _⟩ := rejects_frame ⟨_, x, k, hd, hr, .inr ⟨rfl, hb, rfl⟩⟩
  exact ⟨t, hstep, same⟩

/-! ### Byte-level calls with a wrong length (R203) -/

theorem callLines_of_wrong_length {block key : List Byte} (h : block.length ≠ 2 ∨ key.length ≠ 2) (c : BitVec 2)
    (base : Nat) : callLines c block key base = [.invalidInputSize block.length key.length] := by
  unfold callLines
  split
  · simp at h
  · rfl

/-- Settles O51: the length check comes before the command, and its action writes the host's results only. -/
theorem wrongLengthCallTouchesNothing : Obligations.WrongLengthCallTouchesNothing := by
  refine ⟨fun find base block key h => ?_, fun s n m hd => ⟨_, step_of_hostDoes hd, sameRegisters_refl s, rfl⟩⟩
  exact ⟨congrArg some (callLines_of_wrong_length h _ base), congrArg some (callLines_of_wrong_length h _ base)⟩

end Sys2Proof.Machine.Proofs
end

section
/-!
PROOFS. The family of the reset and its hazards (70_reset_and_hazards.md R220, R221). A host's reset is one step
(`step_of_hostResets`), and a held RST leaves no other move that touches a register (`Move.held`).
-/

namespace Sys2Proof.Machine.Proofs

open Sys2Proof.Machine.Laws

/-! ### RST held (R221, R205) -/

/-- Only a command that is sampled is rejected (R205). -/
theorem released_of_rejects {code : BitVec 2} {s : State} (h : Rejects code s) : s.rst = false := by
  obtain ⟨_, _, _, _, hr, _⟩ := h
  exact hr

/-- Only a command that is sampled is accepted (R205). -/
theorem released_of_accepts {s : State} (h : Accepts s) : s.rst = false := by
  obtain ⟨_, _, _, _, _, _, hr⟩ := h
  exact hr

/-- RST is no register. -/
theorem atReset_setRst {s : State} (h : RegistersAtReset s) (b : Bool) : RegistersAtReset (s.setRst b) := h

/-- A stage, a rejection and an acceptance need RST released: what is left is a reset, or no change. -/
theorem Move.held {s t : State} (m : Move s t) (hr : s.rst = true) : SameRegisters s t ∨ RegistersAtReset t := by
  have hnot : s.rst ≠ false := by simp [hr]
  cases m with
  | quiet same _ _ _ => exact .inl same
  | stage _ _ released _ _ => exact absurd released hnot
  | reject _ _ _ rejects _ => exact absurd (released_of_rejects rejects) hnot
  | accept _ _ _ accepts _ => exact absurd (released_of_accepts accepts) hnot
  | reset held _ next =>
    subst next
    exact .inr (atReset_setRst (resetEngine_atReset _) held)

theorem slotStep_held (w : BitVec 8) {s : State} (hr : s.rst = true) : slotStep w s = .next s.clearSlot := by
  simp [slotStep, hr]

theorem issue_of_held (c : BitVec 2) (x k : PortWord) {s : State} (hr : s.rst = true) :
    issue c x k s = .next (s.drivePorts x k) := by
  simp [issue, hr]

theorem step_held {s t : State} (hr : s.rst = true) (h : step s = .next t) :
    SameRegisters s t ∨ RegistersAtReset t := by
  cases hu : s.uopSlot with
  | some w =>
    cases (slotStep_held w hr).symm.trans ((step_of_slot hu).symm.trans h)
    exact .inl (sameRegisters_refl s)
  | none => exact (step_move hu h).held hr

/-- Settles O4: a step by the moves that are left, an Issue by the ports it drives, and the sequencer's turn passes. -/
theorem heldResetStopsTheEngine : Obligations.HeldResetStopsTheEngine := by
  refine fun s hr => ⟨fun t => step_held hr, fun c x k hd => ?_, fun hm => ?_⟩
  · have hissue := issue_of_held c x k (s := advanceHost s.popSched) hr
    exact ⟨_, (step_of_hostDoes hd).trans hissue, sameRegisters_refl s⟩
  · have hturn := stageStep_held (s := s.popSched) hr
    exact ⟨_, (step_of_sequencerMoves hm).trans hturn, sameRegisters_refl s⟩

/-! ### The reset event (R220) -/

/-- A pulse leaves RST as it was, an assertion leaves it asserted. -/
theorem step_of_hostResets {s : State} (h : HostResets s) :
    ∃ held, step s = .next ((advanceHost s.popSched).resetEngine.setRst held) := by
  rcases h with hpulse | hassert
  · exact ⟨s.rst, step_of_hostDoes hpulse⟩
  · exact ⟨true, step_of_hostDoes hassert⟩

/-- With the four fields of R41, STATUS is the reset state's. -/
theorem status_of_atReset {s : State} (h : RegistersAtReset s) : s.status = 0x00#8 := by
  obtain ⟨hb, hd, he, hc, _⟩ := h
  exact status_eq_iff (t := State.reset).mpr ⟨hb, hd, he, hc⟩

/-- Settles O2: both forms of the reset are one `resetEngine`, whatever RST is after it. -/
theorem resetEventFromEveryState : Obligations.ResetEventFromEveryState := by
  intro s h
  obtain ⟨held, hstep⟩ := step_of_hostResets h
  have hregs := atReset_setRst (resetEngine_atReset (advanceHost s.popSched)) held
  exact ⟨_, hstep, hregs, status_of_atReset hregs⟩

end Sys2Proof.Machine.Proofs
end
